-- ==== Sys2Proof/Word.lean ====
section
/-! DEFINITION. The word types of the block (R7, R8, R101): every value is an unsigned number of a fixed width. -/

namespace Sys2Proof

/-- 8 bits: a V register, a timer, a memory byte, the field NN (R8). -/
abbrev Byte := BitVec 8

/-- 16 bits: I, PC, SP, an opcode (R8). -/
abbrev Word := BitVec 16

/-- 12 bits: the address field NNN (R101). -/
abbrev Addr12 := BitVec 12

/-- 4 bits: a nibble of an opcode (R7, R101). -/
abbrev Nibble := BitVec 4

end Sys2Proof
end

