-- ==== Sys2Proof/Syntax.lean ====
section
/-! DEFINITION. The instructions: one constructor for each row of spec/opcode_table.json, in the table's order.
The spec's typed instruction (R107) writes rows 11 to 20 as `Alu(op, x, y)`; here each of them is a constructor of its own
(D1: no behaviour depends on the factoring; log entry 24). `Unknown(opcode)` is no row: it is `Decoded.unknown`. -/

namespace Sys2Proof

/-- A register number, the value of a 4-bit opcode field: always in range (R20). -/
abbrev RegIdx := Nibble

/-- A decoded instruction (R103, R107). -/
inductive Instr where
  /-- 00E0 CLS, ClearDisplay (R274). -/
  | cls
  /-- 00EE RET, Return (R160). -/
  | ret
  /-- 0NNN SYS, CallMachineCode (R161). -/
  | sys (nnn : Addr12)
  /-- 1NNN JP, Jump (R162). -/
  | jp (nnn : Addr12)
  /-- 2NNN CALL, CallSubroutine (R163). -/
  | call (nnn : Addr12)
  /-- 3XNN SE Vx, nn, SkipEqConst (R181). -/
  | seVxNn (x : RegIdx) (nn : Byte)
  /-- 4XNN SNE Vx, nn, SkipNeConst (R182). -/
  | sneVxNn (x : RegIdx) (nn : Byte)
  /-- 5XY0 SE Vx, Vy, SkipEqReg (R183). -/
  | seVxVy (x y : RegIdx)
  /-- 6XNN LD Vx, nn, LoadConst (R202). -/
  | ldVxNn (x : RegIdx) (nn : Byte)
  /-- 7XNN ADD Vx, nn, AddConst (R203). -/
  | addVxNn (x : RegIdx) (nn : Byte)
  /-- 8XY0 LD Vx, Vy, Alu(Assign) (R204). -/
  | ldVxVy (x y : RegIdx)
  /-- 8XY1 OR, Alu(Or) (R205). -/
  | or (x y : RegIdx)
  /-- 8XY2 AND, Alu(And) (R206). -/
  | and (x y : RegIdx)
  /-- 8XY3 XOR, Alu(Xor) (R207). -/
  | xor (x y : RegIdx)
  /-- 8XY4 ADD Vx, Vy, Alu(Add) (R208). -/
  | addVxVy (x y : RegIdx)
  /-- 8XY5 SUB, Alu(Subtract) (R209). -/
  | sub (x y : RegIdx)
  /-- 8XY6 SHR, Alu(ShiftRight) (R210). -/
  | shr (x y : RegIdx)
  /-- 8XY7 SUBN, Alu(SubtractFlipped) (R211). -/
  | subn (x y : RegIdx)
  /-- 8XYE SHL, Alu(ShiftLeft) (R212). -/
  | shl (x y : RegIdx)
  /-- 8XY8, Alu(UnknownAlu(8)) (R213). -/
  | aluUnknown8 (x y : RegIdx)
  /-- 8XY9, Alu(UnknownAlu(9)) (R213). -/
  | aluUnknown9 (x y : RegIdx)
  /-- 8XYA, Alu(UnknownAlu(A)) (R213). -/
  | aluUnknownA (x y : RegIdx)
  /-- 8XYB, Alu(UnknownAlu(B)) (R213). -/
  | aluUnknownB (x y : RegIdx)
  /-- 8XYC, Alu(UnknownAlu(C)) (R213). -/
  | aluUnknownC (x y : RegIdx)
  /-- 8XYD, Alu(UnknownAlu(D)) (R213). -/
  | aluUnknownD (x y : RegIdx)
  /-- 8XYF, Alu(UnknownAlu(F)) (R213). -/
  | aluUnknownF (x y : RegIdx)
  /-- 9XY0 SNE Vx, Vy, SkipNeReg (R184). -/
  | sneVxVy (x y : RegIdx)
  /-- ANNN LD I, nnn, LoadI (R240). -/
  | ldI (nnn : Addr12)
  /-- BNNN JP V0, nnn, SpecialJump (R164). -/
  | jpV0 (nnn : Addr12)
  /-- CXNN RND, Random (R214). -/
  | rnd (x : RegIdx) (nn : Byte)
  /-- DXYN DRW, Draw (R275). -/
  | drw (x y : RegIdx) (n : Nibble)
  /-- EX9E SKP, SkipKeyPressed (R185). -/
  | skp (x : RegIdx)
  /-- EXA1 SKNP, SkipKeyNotPressed (R186). -/
  | sknp (x : RegIdx)
  /-- FX07 LD Vx, DT, LoadDelay (R302). -/
  | ldVxDt (x : RegIdx)
  /-- FX0A LD Vx, K, WaitKey (R304). -/
  | ldVxK (x : RegIdx)
  /-- FX15 LD DT, Vx, SetDelay (R305). -/
  | ldDtVx (x : RegIdx)
  /-- FX18 LD ST, Vx, SetSound (R306). -/
  | ldStVx (x : RegIdx)
  /-- FX1E ADD I, Vx, AddI (R241). -/
  | addIVx (x : RegIdx)
  /-- FX29 LD F, Vx, LoadSpriteAddr (R242). -/
  | ldFVx (x : RegIdx)
  /-- FX33 LD B, Vx, StoreBcd (R243). -/
  | ldBVx (x : RegIdx)
  /-- FX55 LD [I], Vx, DumpRegisters (R244). -/
  | ldMemIVx (x : RegIdx)
  /-- FX65 LD Vx, [I], LoadRegisters (R245). -/
  | ldVxMemI (x : RegIdx)
  deriving DecidableEq, Repr

end Sys2Proof
end

