-- ==== Sys2Proof/WellFormed.lean ====
section
/-! DEFINITION. Which terms of `Instr` stand for an opcode. The field widths are in the types (R107); the one check left is
that of class 0: 00E0 and 00EE are ClearDisplay and Return, never a machine-code call (R104). -/

namespace Sys2Proof

/-- The term is the decoding of some opcode: a machine-code call does not name 0x0E0 or 0x0EE (R104). -/
def Instr.wellFormed : Instr → Bool
  | .sys nnn => nnn != 0x0E0 && nnn != 0x0EE
  | .cls | .ret | .jp _ | .call _ | .seVxNn _ _ | .sneVxNn _ _ | .seVxVy _ _ | .ldVxNn _ _ | .addVxNn _ _ => true
  | .ldVxVy _ _ | .or _ _ | .and _ _ | .xor _ _ | .addVxVy _ _ | .sub _ _ | .shr _ _ | .subn _ _ | .shl _ _ => true
  | .aluUnknown8 _ _ | .aluUnknown9 _ _ | .aluUnknownA _ _ | .aluUnknownB _ _ | .aluUnknownC _ _ => true
  | .aluUnknownD _ _ | .aluUnknownF _ _ | .sneVxVy _ _ | .ldI _ | .jpV0 _ | .rnd _ _ | .drw _ _ _ => true
  | .skp _ | .sknp _ | .ldVxDt _ | .ldVxK _ | .ldDtVx _ | .ldStVx _ | .addIVx _ | .ldFVx _ | .ldBVx _ => true
  | .ldMemIVx _ | .ldVxMemI _ => true

end Sys2Proof
end

