-- ==== Sys2Proof/Decode.lean ====
section
/-! DEFINITION. The decoder (R102, R103), total over all 65536 opcodes, and after it the encoder, written from the encodings of
the instruction rules. The byte order of an opcode (R64, R7) is here too. -/

namespace Sys2Proof

/-! ### Bytes and fields of an opcode -/

/-- Two bytes as one opcode, the byte at the lower address high (R64, R7). -/
def wordOfBytes (hi lo : Byte) : Word := hi ++ lo

/-- Bits 15 to 8: the byte stored at the lower address (R64, R65). -/
def highByte (w : Word) : Byte := w.extractLsb' 8 8

/-- Bits 7 to 0: the byte stored at the higher address (R64, R65). -/
def lowByte (w : Word) : Byte := w.extractLsb' 0 8

/-- C, op[15:12] (R101). -/
def fieldC (op : Word) : Nibble := op.extractLsb' 12 4

/-- X, op[11:8] (R101). -/
def fieldX (op : Word) : Nibble := op.extractLsb' 8 4

/-- Y, op[7:4] (R101). -/
def fieldY (op : Word) : Nibble := op.extractLsb' 4 4

/-- N, op[3:0] (R101). -/
def fieldN (op : Word) : Nibble := op.extractLsb' 0 4

/-- NN, op[7:0] (R101). -/
def fieldNN (op : Word) : Byte := op.extractLsb' 0 8

/-- NNN, op[11:0] (R101). -/
def fieldNNN (op : Word) : Addr12 := op.extractLsb' 0 12

/-! ### The decoder -/

/-- What the decoder answers: an instruction of the table, or the distinguished `Unknown(opcode)` that carries the
offending opcode (R102, R105). -/
inductive Decoded where
  /-- One of the 42 rows of the opcode table. -/
  | known (i : Instr)
  /-- The opcode matches no row (R105). -/
  | unknown (opcode : Word)
  deriving DecidableEq, Repr

/-- Class 0, rows 1 to 3: the two exact opcodes first, every other one a machine-code call (R103, R104). -/
def decodeClass0 (op : Word) : Decoded :=
  if op = 0x00E0 then .known .cls
  else if op = 0x00EE then .known .ret
  else .known (.sys (fieldNNN op))

/-- Classes 5 and 9, rows 8 and 21: the low nibble is the digit 0, any other is unknown (R103, R105, D2). -/
def decodeNZero (op : Word) (i : Instr) : Decoded :=
  if fieldN op = 0 then .known i else .unknown op

/-- Class 8, rows 11 to 20: the ALU operation is the low nibble; 8 to D and F decode but are unrecognised (R103, R106). -/
def decodeClass8 (op : Word) : Instr :=
  match fieldN op with
  | 0x0#4 => .ldVxVy (fieldX op) (fieldY op)
  | 0x1#4 => .or (fieldX op) (fieldY op)
  | 0x2#4 => .and (fieldX op) (fieldY op)
  | 0x3#4 => .xor (fieldX op) (fieldY op)
  | 0x4#4 => .addVxVy (fieldX op) (fieldY op)
  | 0x5#4 => .sub (fieldX op) (fieldY op)
  | 0x6#4 => .shr (fieldX op) (fieldY op)
  | 0x7#4 => .subn (fieldX op) (fieldY op)
  | 0x8#4 => .aluUnknown8 (fieldX op) (fieldY op)
  | 0x9#4 => .aluUnknown9 (fieldX op) (fieldY op)
  | 0xA#4 => .aluUnknownA (fieldX op) (fieldY op)
  | 0xB#4 => .aluUnknownB (fieldX op) (fieldY op)
  | 0xC#4 => .aluUnknownC (fieldX op) (fieldY op)
  | 0xD#4 => .aluUnknownD (fieldX op) (fieldY op)
  | 0xE#4 => .shl (fieldX op) (fieldY op)
  | _ => .aluUnknownF (fieldX op) (fieldY op) -- 0xF, the one nibble left

/-- Class E, rows 26 and 27: the key skips (R103, R105). -/
def decodeClassE (op : Word) : Decoded :=
  match fieldNN op with
  | 0x9E#8 => .known (.skp (fieldX op))
  | 0xA1#8 => .known (.sknp (fieldX op))
  | _ => .unknown op

/-- Class F, rows 28 to 36 (R103, R105). -/
def decodeClassF (op : Word) : Decoded :=
  match fieldNN op with
  | 0x07#8 => .known (.ldVxDt (fieldX op))
  | 0x0A#8 => .known (.ldVxK (fieldX op))
  | 0x15#8 => .known (.ldDtVx (fieldX op))
  | 0x18#8 => .known (.ldStVx (fieldX op))
  | 0x1E#8 => .known (.addIVx (fieldX op))
  | 0x29#8 => .known (.ldFVx (fieldX op))
  | 0x33#8 => .known (.ldBVx (fieldX op))
  | 0x55#8 => .known (.ldMemIVx (fieldX op))
  | 0x65#8 => .known (.ldVxMemI (fieldX op))
  | _ => .unknown op

/-- The decoder: the table of R103 by class; it depends on the opcode alone and never fails (R102). -/
def decode (op : Word) : Decoded :=
  match fieldC op with
  | 0x0#4 => decodeClass0 op
  | 0x1#4 => .known (.jp (fieldNNN op))
  | 0x2#4 => .known (.call (fieldNNN op))
  | 0x3#4 => .known (.seVxNn (fieldX op) (fieldNN op))
  | 0x4#4 => .known (.sneVxNn (fieldX op) (fieldNN op))
  | 0x5#4 => decodeNZero op (.seVxVy (fieldX op) (fieldY op))
  | 0x6#4 => .known (.ldVxNn (fieldX op) (fieldNN op))
  | 0x7#4 => .known (.addVxNn (fieldX op) (fieldNN op))
  | 0x8#4 => .known (decodeClass8 op)
  | 0x9#4 => decodeNZero op (.sneVxVy (fieldX op) (fieldY op))
  | 0xA#4 => .known (.ldI (fieldNNN op))
  | 0xB#4 => .known (.jpV0 (fieldNNN op))
  | 0xC#4 => .known (.rnd (fieldX op) (fieldNN op))
  | 0xD#4 => .known (.drw (fieldX op) (fieldY op) (fieldN op))
  | 0xE#4 => decodeClassE op
  | _ => decodeClassF op -- 0xF, the one class left

/-- The decoder on the two bytes of an instruction, in the order they stand in memory (R64, R100). -/
def decodeBytes (first second : Byte) : Decoded := decode (wordOfBytes first second)

/-- The opcode of a table row's word: the bits above `nbits` are zero. -/
def tableWord (nbits w : Nat) : Word := BitVec.ofNat 16 (w % 2 ^ nbits)

/-- The instruction the decoder reads from a table word laid out in memory, high byte first (R64); none for `Unknown`. -/
def decodeTableWord (nbits w : Nat) : Option Instr :=
  match decodeBytes (highByte (tableWord nbits w)) (lowByte (tableWord nbits w)) with
  | .known i => some i
  | .unknown _ => none

/-! ### The encoder -/

/-- The format class, NNN (R101). -/
def encodeNNN (c : Nibble) (nnn : Addr12) : Word := c ++ nnn

/-- The format class, X, NN (R101). -/
def encodeXNN (c x : Nibble) (nn : Byte) : Word := c ++ x ++ nn

/-- The format class, X, Y, N (R101). -/
def encodeXYN (c x y n : Nibble) : Word := c ++ x ++ y ++ n

/-- The opcode of an instruction, from the "Encoding" line of its rule. -/
def encode : Instr → Word
  | .cls => 0x00E0
  | .ret => 0x00EE
  | .sys nnn => encodeNNN 0x0 nnn
  | .jp nnn => encodeNNN 0x1 nnn
  | .call nnn => encodeNNN 0x2 nnn
  | .seVxNn x nn => encodeXNN 0x3 x nn
  | .sneVxNn x nn => encodeXNN 0x4 x nn
  | .seVxVy x y => encodeXYN 0x5 x y 0x0
  | .ldVxNn x nn => encodeXNN 0x6 x nn
  | .addVxNn x nn => encodeXNN 0x7 x nn
  | .ldVxVy x y => encodeXYN 0x8 x y 0x0
  | .or x y => encodeXYN 0x8 x y 0x1
  | .and x y => encodeXYN 0x8 x y 0x2
  | .xor x y => encodeXYN 0x8 x y 0x3
  | .addVxVy x y => encodeXYN 0x8 x y 0x4
  | .sub x y => encodeXYN 0x8 x y 0x5
  | .shr x y => encodeXYN 0x8 x y 0x6
  | .subn x y => encodeXYN 0x8 x y 0x7
  | .shl x y => encodeXYN 0x8 x y 0xE
  | .aluUnknown8 x y => encodeXYN 0x8 x y 0x8
  | .aluUnknown9 x y => encodeXYN 0x8 x y 0x9
  | .aluUnknownA x y => encodeXYN 0x8 x y 0xA
  | .aluUnknownB x y => encodeXYN 0x8 x y 0xB
  | .aluUnknownC x y => encodeXYN 0x8 x y 0xC
  | .aluUnknownD x y => encodeXYN 0x8 x y 0xD
  | .aluUnknownF x y => encodeXYN 0x8 x y 0xF
  | .sneVxVy x y => encodeXYN 0x9 x y 0x0
  | .ldI nnn => encodeNNN 0xA nnn
  | .jpV0 nnn => encodeNNN 0xB nnn
  | .rnd x nn => encodeXNN 0xC x nn
  | .drw x y n => encodeXYN 0xD x y n
  | .skp x => encodeXNN 0xE x 0x9E
  | .sknp x => encodeXNN 0xE x 0xA1
  | .ldVxDt x => encodeXNN 0xF x 0x07
  | .ldVxK x => encodeXNN 0xF x 0x0A
  | .ldDtVx x => encodeXNN 0xF x 0x15
  | .ldStVx x => encodeXNN 0xF x 0x18
  | .addIVx x => encodeXNN 0xF x 0x1E
  | .ldFVx x => encodeXNN 0xF x 0x29
  | .ldBVx x => encodeXNN 0xF x 0x33
  | .ldMemIVx x => encodeXNN 0xF x 0x55
  | .ldVxMemI x => encodeXNN 0xF x 0x65

end Sys2Proof
end

