-- ==== Sys2Proof/Config.lean ====
section
/-! DEFINITION. Config: the constants the spec fixes for this hardware (R6) and the values it leaves open.
The two parameters whose default the spec takes from general knowledge (FONT, STACK_DEPTH) are in Machine/Params.lean. -/

namespace Sys2Proof.Config

/-- MEM_SIZE: addresses 0x000 to 0xFFF (R6, R60). -/
def memSize : Nat := 0x1000

/-- PC_RESET and PROGRAM_BASE (R6, R371). -/
def programBase : Nat := 0x200

/-- STACK_TOP, the highest stack byte and the value of SP when the stack is empty (R6, R25). -/
def stackTop : Nat := 0x0EFF

/-- The longest padded program that `load_program` accepts (R373). -/
def maxProgram : Nat := 0xE00

/-- RANDOM: the n-th random draw. A FREE VALUE (R146, D21): no law constrains it, a claim holds for every draw.
DESIGN CHOICE (log entry 4): the draws are numbered by the state's counter `draws`. -/
opaque draw : Nat → BitVec 8

/-- RENDER_ON: the two characters that spell an On pixel. A FREE VALUE (R276, D22, log entry 21). -/
opaque renderOnChars : Char × Char

/-- RENDER_OFF: the two characters that spell an Off pixel. A FREE VALUE (R276, D22, log entry 21). -/
opaque renderOffChars : Char × Char

/-- The line break between two rows of the string view. A FREE VALUE (R276, N15, log entry 21). -/
opaque lineBreak : String

end Sys2Proof.Config
end

