-- ==== Sys2Proof/Machine/State.lean ====
section
/-! DEFINITION. The state of the block (10_state.md): V, I, PC, SP, DT, ST, KEY, DISP, MEM, HALT, and the model's own counter of
random draws. Plain data throughout. Beside it the reasons a rule may raise and the record a fault leaves in HALT. -/

namespace Sys2Proof.Machine

/-- What a rule's pseudocode raises (R9, R320): the kind and its datum. No meaning and no step of this model ENDS in one:
the step that raises it takes it into HALT and goes on to a next state (R143, R322; log entry 1), which is safe. -/
inductive Fault where
  /-- Kind 1. Raised by SYS (R161). Safe: the spec's own fault. -/
  | unsupportedFeature
  /-- Kind 2. Raised by the step on `Decoded.unknown` (R105, R142). Safe: the spec's own fault. -/
  | decodeFailure
  /-- Kind 3. Raised by ALU_UNKNOWN_8 to ALU_UNKNOWN_F (R213). Safe: the spec's own fault. -/
  | unknownAluSubOpcode
  /-- Kind 4, with the out-of-range address. Raised by the fetch, DRW, LD_B_VX, LD_MEM_I_VX, LD_VX_MEM_I (R62). Safe. -/
  | memoryAddress (addr : Nat)
  /-- Kind 5. Raised by CALL (R70). Safe for the depth the model takes (log entry 6). -/
  | stackOverflow
  /-- Kind 6. Raised by RET (R71). Safe: the spec's own fault. -/
  | stackUnderflow
  /-- Kind 7, with the key value. Raised by SKP and SKNP (R300). Safe: the spec's own fault (D7). -/
  | keyIndex (value : Byte)
  deriving DecidableEq, Repr

/-- Instructions without a meaning. No arm of `exec` uses it. -/
inductive Refusal where
  /-- The instruction of this mnemonic has no meaning yet. Raised by no arm of this model; it would be safe. -/
  | notModelled (mnemonic : String)
  deriving DecidableEq, Repr

/-- The seven kinds of R320. -/
inductive FaultKind where
  | unsupportedFeature
  | decodeFailure
  | unknownAluSubOpcode
  | memoryAddress
  | stackOverflow
  | stackUnderflow
  | keyIndex
  deriving DecidableEq, Repr

/-- The fault record of R321. -/
structure FaultRecord where
  /-- The kind of R320. -/
  kind : FaultKind
  /-- pc0, the address the faulting step fetched from or tried to. -/
  pc : Word
  /-- The opcode; none when the fetch itself faulted. -/
  opcode : Option Word
  /-- Kind 4: the lowest out-of-range address. -/
  addr : Option Nat
  /-- Kind 7: the key value. -/
  value : Option Byte
  deriving DecidableEq, Repr

/-- MEM (R29) as (address, byte) pairs; `Memory.wf` of Machine/Memory.lean is its canonical form. An unlisted address reads as
its reset contents (log entry 28). -/
abbrev Memory := List Host.Cell

/-- One pixel: true is On, false is Off (R28). -/
abbrev Pixel := Bool

/-- DISP[y][x]: 32 rows of 64 pixels (R28, R270). -/
abbrev Display := Vector (Vector Pixel 64) 32

/-- The state of the block. -/
structure State where
  /-- V0 to VF (R20). -/
  v : Vector Byte 16
  /-- I (R23). -/
  iReg : Word
  /-- PC (R24). -/
  pc : Word
  /-- SP (R25). -/
  sp : Word
  /-- DT (R26). -/
  dt : Byte
  /-- ST (R26). -/
  st : Byte
  /-- KEY: true is held (R27). -/
  key : Vector Bool 16
  /-- DISP (R28). -/
  disp : Display
  /-- MEM (R29). -/
  mem : Memory
  /-- HALT (R30). -/
  halt : Option FaultRecord
  /-- The model's own: how many random draws have been taken (R146; log entry 4). -/
  draws : Nat
  deriving DecidableEq, Repr

/-- The state after `reset()` (R33, R370). PC and SP as the source gives them; V, I, DT, ST, KEY, DISP and memory outside the
font by the spec's own choice D16 (log entry 7); `draws` is the model's own (DESIGN CHOICE, log entry 4). -/
def State.reset : State where
  v := Vector.replicate 16 0
  iReg := 0
  pc := 0x0200
  sp := 0x0EFF
  dt := 0
  st := 0
  key := Vector.replicate 16 false
  disp := Vector.replicate 32 (Vector.replicate 64 false)
  mem := []
  halt := none
  draws := 0

end Sys2Proof.Machine
end

