-- ==== Sys2Proof/Machine/Display.lean ====
section
/-! DEFINITION. The display: pixels, toggle_pixel, DrawSprite, clear and the three read views (45_display.md). -/

namespace Sys2Proof.Machine

/-- The pixel at column x, row y, coordinates wrapped modulo 64 and 32 (R270). -/
def Display.pixel (d : Display) (x y : Nat) : Pixel :=
  (d[y % 32]'(Nat.mod_lt y (by decide)))[x % 64]'(Nat.mod_lt x (by decide))

/-- The display with the pixel at column x, row y replaced, coordinates wrapped (R270). -/
def Display.setPixel (d : Display) (x y : Nat) (p : Pixel) : Display :=
  d.set (y % 32) ((d[y % 32]'(Nat.mod_lt y (by decide))).set (x % 64) p (Nat.mod_lt x (by decide))) (Nat.mod_lt y (by decide))

/-- toggle_pixel: flips one pixel and reports whether it was On before the flip (R272). -/
def Display.togglePixel (d : Display) (x y : Nat) : Display × Bool :=
  (d.setPixel x y (!d.pixel x y), d.pixel x y)

/-- Column c of a sprite row: bit 7 - c of the byte, so bit 7 is the leftmost (R271). -/
def spriteBit (row : Byte) (c : Nat) : Bool := row.getLsbD (7 - c)

/-- The inner loop of DrawSprite over the given columns of one row (R273). -/
def Display.drawColumns (x y : Nat) (row : Byte) : List Nat → Display × Bool → Display × Bool
  | [], acc => acc
  | c :: cs, acc =>
    if spriteBit row c then
      Display.drawColumns x y row cs ((acc.1.togglePixel (x + c) y).1, acc.2 || (acc.1.togglePixel (x + c) y).2)
    else Display.drawColumns x y row cs acc

/-- The outer loop of DrawSprite, one row of pixels for each byte (R273). -/
def Display.drawRows (x : Nat) : Nat → List Byte → Display × Bool → Display × Bool
  | _, [], acc => acc
  | y, row :: rows, acc => Display.drawRows x (y + 1) rows (Display.drawColumns x y row (List.range 8) acc)

/-- DrawSprite: XOR-composites the rows at (x, y) and reports whether any pixel went from On to Off (R273). -/
def Display.drawSprite (d : Display) (x y : Nat) (rows : List Byte) : Display × Bool :=
  Display.drawRows x y rows (d, false)

/-- clear(): every pixel Off (R274). -/
def Display.clear : Display := Vector.replicate 32 (Vector.replicate 64 false)

/-! ### The read views (R276) -/

/-- The flattened view: byte y*64 + x is 1 where the pixel is On, else 0 (R276, D22). -/
def Display.flat (d : Display) : List Byte :=
  d.toList.flatMap (fun row => row.toList.map (fun p => if p then 1 else 0))

/-- The two-character string of a pixel: RENDER_ON or RENDER_OFF (R276, D22). -/
def Display.pixelString (p : Pixel) : String :=
  if p then String.ofList [Config.renderOnChars.1, Config.renderOnChars.2]
  else String.ofList [Config.renderOffChars.1, Config.renderOffChars.2]

/-- One row of the string view: its 64 pixels in order (R276). -/
def Display.rowString (row : Vector Pixel 64) : String := String.join (row.toList.map Display.pixelString)

/-- The string view: the 32 rows from the top, separated by a line break (R276). -/
def Display.text (d : Display) : String := String.intercalate Config.lineBreak (d.toList.map Display.rowString)

end Sys2Proof.Machine
end

