-- ==== Sys2Proof/Machine/Params.lean ====
section
/-! DEFINITION. The two parameters of R6 whose default the spec supplies from general knowledge: FONT and STACK_DEPTH.
PRESUMED, both (log entries 5 and 6). A claim names the parameter, not its value. -/

namespace Sys2Proof.Machine

/-- STACK_DEPTH, 1 to 64 return addresses. PRESUMED 16 (R6, D10, G3; log entry 6). -/
def Params.stackDepth : Nat := 16

/-- The glyphs of the digits 0 to 3 (R372). PRESUMED (log entry 5). -/
def Params.glyphs03 : List Byte :=
  [0xF0, 0x90, 0x90, 0x90, 0xF0] ++ [0x20, 0x60, 0x20, 0x20, 0x70] ++
  [0xF0, 0x10, 0xF0, 0x80, 0xF0] ++ [0xF0, 0x10, 0xF0, 0x10, 0xF0]

/-- The glyphs of the digits 4 to 7 (R372). PRESUMED (log entry 5). -/
def Params.glyphs47 : List Byte :=
  [0x90, 0x90, 0xF0, 0x10, 0x10] ++ [0xF0, 0x80, 0xF0, 0x10, 0xF0] ++
  [0xF0, 0x80, 0xF0, 0x90, 0xF0] ++ [0xF0, 0x10, 0x20, 0x40, 0x40]

/-- The glyphs of the digits 8 to B (R372). PRESUMED (log entry 5). -/
def Params.glyphs8B : List Byte :=
  [0xF0, 0x90, 0xF0, 0x90, 0xF0] ++ [0xF0, 0x90, 0xF0, 0x10, 0xF0] ++
  [0xF0, 0x90, 0xF0, 0x90, 0x90] ++ [0xE0, 0x90, 0xE0, 0x90, 0xE0]

/-- The glyphs of the digits C to F (R372). PRESUMED (log entry 5). -/
def Params.glyphsCF : List Byte :=
  [0xF0, 0x80, 0x80, 0x80, 0xF0] ++ [0xE0, 0x90, 0x90, 0x90, 0xE0] ++
  [0xF0, 0x80, 0xF0, 0x80, 0xF0] ++ [0xF0, 0x80, 0xF0, 0x80, 0x80]

/-- FONT: the 80 bytes at 0x000 to 0x04F (R6, R372, D17, G1). PRESUMED (log entry 5). -/
def Params.font : List Byte :=
  Params.glyphs03 ++ Params.glyphs47 ++ Params.glyphs8B ++ Params.glyphsCF

end Sys2Proof.Machine
end

