-- ==== Sys2Proof/Machine/Memory.lean ====
section
/-! DEFINITION. MEM as plain data: what an address reads as, and the write that keeps the canonical form. The range check of
R62 is not here but in `State.memRead` and `State.memWrite` (Machine/Ops.lean). -/

namespace Sys2Proof.Machine

/-- What an unlisted address reads as: the reset contents, the font at 0x000 to 0x04F and zero elsewhere (R33, R370). -/
def resetByte (a : Nat) : Byte := Params.font.getD a 0

/-- The byte at an address (R68: the last byte written there, or the reset value). -/
def Memory.byte : Memory → Nat → Byte
  | [], a => resetByte a
  | (k, b) :: m, a => if k = a then b else Memory.byte m a

/-- Adds a cell at its place in rising order. -/
def Memory.insertCell (a : Nat) (v : Byte) : Memory → Memory
  | [] => [(a, v)]
  | (k, b) :: m => if a < k then (a, v) :: (k, b) :: m else (k, b) :: Memory.insertCell a v m

/-- Writes one byte: the address's old cell goes, and a new one comes unless the byte is what the address reads as
unlisted. -/
def Memory.put (m : Memory) (a : Nat) (v : Byte) : Memory :=
  if v = resetByte a then m.filter (fun c => c.1 != a)
  else Memory.insertCell a v (m.filter (fun c => c.1 != a))

/-- Writes bytes at ascending addresses. -/
def Memory.putBytes (m : Memory) (a : Nat) : List Byte → Memory
  | [] => m
  | b :: bs => Memory.putBytes (m.put a b) (a + 1) bs

/-- The canonical form: addresses below 4096 and strictly rising, no cell equal to what its address reads as unlisted. -/
def Memory.wf : Memory → Bool
  | [] => true
  | (a, b) :: m => decide (a < Config.memSize) && b != resetByte a && m.all (fun c => decide (a < c.1)) && Memory.wf m

end Sys2Proof.Machine
end

