-- ==== Sys2Proof/Machine/Ops.lean ====
section
/-! DEFINITION. The named operations over registers and memory that every meaning is built from (R9), and taking a fault
(R143, R321): one operation for all of them. There is no return from a fault beside it: only `reset()` ends the halted state
(R326; `hostReset` of Machine/HostOps.lean). -/

namespace Sys2Proof.Machine

/-! ### Registers -/

/-- V[x] (R20). -/
def State.V (s : State) (x : RegIdx) : Byte := s.v[x.toNat]'x.isLt

/-- V[x] <- b (R20). -/
def State.setV (s : State) (x : RegIdx) (b : Byte) : State := { s with v := s.v.set x.toNat b x.isLt }

/-- VF, the flag register (R21). -/
def regF : RegIdx := 0xF

/-- I <- w (R23). -/
def State.setI (s : State) (w : Word) : State := { s with iReg := w }

/-- pc <- w (R24). -/
def State.setPc (s : State) (w : Word) : State := { s with pc := w }

/-- SP <- w (R25). -/
def State.setSp (s : State) (w : Word) : State := { s with sp := w }

/-- DT <- b (R26). -/
def State.setDt (s : State) (b : Byte) : State := { s with dt := b }

/-- ST <- b (R26). -/
def State.setSt (s : State) (b : Byte) : State := { s with st := b }

/-- DISP <- d (R28). -/
def State.setDisp (s : State) (d : Display) : State := { s with disp := d }

/-- MEM <- m (R29). -/
def State.setMem (s : State) (m : Memory) : State := { s with mem := m }

/-- KEY <- k (R27). -/
def State.setKeys (s : State) (k : Vector Bool 16) : State := { s with key := k }

/-- HALT <- h (R30). -/
def State.setHalt (s : State) (h : Option FaultRecord) : State := { s with halt := h }

/-- One random draw has been taken (R146; log entry 4). -/
def State.bumpDraws (s : State) : State := { s with draws := s.draws + 1 }

/-- The advance of PC by 2 that comes before every execution, modulo 2^16 (R141, D15). -/
def State.advance (s : State) : State := s.setPc (s.pc + 2)

/-- A skip: a further 2 when the test holds (R180). -/
def State.skipIf (test : Bool) (s : State) : State := if test then s.setPc (s.pc + 2) else s

/-! ### Memory -/

/-- MemRead(a, 1) (R62): a is not wrapped. -/
def State.memRead (s : State) (a : Nat) : Except Fault Byte :=
  if a < Config.memSize then .ok (s.mem.byte a) else .error (.memoryAddress a)

/-- MemWrite(a, 1, b) (R62): a is not wrapped. -/
def State.memWrite (s : State) (a : Nat) (b : Byte) : Except Fault State :=
  if a < Config.memSize then .ok (s.setMem (s.mem.put a b)) else .error (.memoryAddress a)

/-- n reads at ascending addresses from a, in order: the first out of range raises (R66, R68). -/
def State.readBytes (s : State) : Nat → Nat → Except Fault (List Byte)
  | _, 0 => .ok []
  | a, n + 1 =>
    match s.memRead a with
    | .error f => .error f
    | .ok b =>
      match s.readBytes (a + 1) n with
      | .error f => .error f
      | .ok bs => .ok (b :: bs)

/-- Writes at ascending addresses from a, in order: the first out of range raises (R66, R68). -/
def State.writeBytes : State → Nat → List Byte → Except Fault State
  | s, _, [] => .ok s
  | s, a, b :: bs =>
    match s.memWrite a b with
    | .error f => .error f
    | .ok s' => State.writeBytes s' (a + 1) bs

/-- Fetch16(PC): two bytes, high byte first; PC + 1 is not wrapped (R64). -/
def State.fetchOpcode (s : State) : Except Fault Word :=
  match s.memRead s.pc.toNat with
  | .error f => .error f
  | .ok hi =>
    match s.memRead (s.pc.toNat + 1) with
    | .error f => .error f
    | .ok lo => .ok (wordOfBytes hi lo)

/-! ### The call stack -/

/-- The entries in use, (0x0EFF - SP) / 2 (R69). -/
def State.stackUsed (s : State) : Nat := (Config.stackTop - s.sp.toNat) / 2

/-- Push(w) on a stack of the given depth: high byte at the lower address, then SP <- SP - 2 (R70, D9, D10; log entries 8, 27). -/
def State.push (depth : Nat) (w : Word) (s : State) : Except Fault State :=
  if s.stackUsed ≥ depth then .error .stackOverflow
  else
    match s.memWrite (s.sp.toNat - 1) (highByte w) with
    | .error f => .error f
    | .ok s1 =>
      match s1.memWrite s.sp.toNat (lowByte w) with
      | .error f => .error f
      | .ok s2 => .ok (s2.setSp (s.sp - 2))

/-- Pop(): the word at SP + 1, SP + 2, then SP <- SP + 2; the bytes stay in memory (R71, R69, D31). -/
def State.pop (s : State) : Except Fault (Word × State) :=
  if s.sp.toNat = Config.stackTop then .error .stackUnderflow
  else
    match s.memRead (s.sp.toNat + 1) with
    | .error f => .error f
    | .ok hi =>
      match s.memRead (s.sp.toNat + 2) with
      | .error f => .error f
      | .ok lo => .ok (wordOfBytes hi lo, s.setSp (s.sp + 2))

/-! ### Keys -/

/-- KEY[k]; false past the last key, which no rule reads (R27). -/
def State.keyFlag (s : State) (k : Nat) : Bool := if h : k < 16 then s.key[k]'h else false

/-- KeyHeld(k): raises for a key index of 16 or more (R300, D7). -/
def State.keyHeld (s : State) (k : Byte) : Except Fault Bool :=
  if k.toNat ≥ 16 then .error (.keyIndex k) else .ok (s.keyFlag k.toNat)

/-- FirstHeld(): the lowest held key, if any (R301, D8). -/
def State.firstHeld (s : State) : Option Nat := (List.range 16).find? s.keyFlag

/-! ### Taking a fault -/

/-- The kind of a raised fault (R320). -/
def Fault.kind : Fault → FaultKind
  | .unsupportedFeature => .unsupportedFeature
  | .decodeFailure => .decodeFailure
  | .unknownAluSubOpcode => .unknownAluSubOpcode
  | .memoryAddress _ => .memoryAddress
  | .stackOverflow => .stackOverflow
  | .stackUnderflow => .stackUnderflow
  | .keyIndex _ => .keyIndex

/-- The numeric code of a kind (R320, D14). -/
def FaultKind.code : FaultKind → Nat
  | .unsupportedFeature => 1
  | .decodeFailure => 2
  | .unknownAluSubOpcode => 3
  | .memoryAddress => 4
  | .stackOverflow => 5
  | .stackUnderflow => 6
  | .keyIndex => 7

/-- The record's addr: kind 4 only (R321). -/
def Fault.addr : Fault → Option Nat
  | .memoryAddress a => some a
  | .unsupportedFeature | .decodeFailure | .unknownAluSubOpcode | .stackOverflow | .stackUnderflow | .keyIndex _ => none

/-- The record's value: kind 7 only (R321). -/
def Fault.value : Fault → Option Byte
  | .keyIndex k => some k
  | .unsupportedFeature | .decodeFailure | .unknownAluSubOpcode | .memoryAddress _ | .stackOverflow | .stackUnderflow => none

/-- The fault record of R321. -/
def Fault.record (f : Fault) (pc0 : Word) (op : Option Word) : FaultRecord where
  kind := f.kind
  pc := pc0
  opcode := op
  addr := f.addr
  value := f.value

/-- TAKING A FAULT, from the state before the step's first change: nothing of the step is committed, so PC is still pc0, and
HALT holds the record (R143, R321, R325). -/
def State.takeFault (s : State) (op : Option Word) (f : Fault) : State := s.setHalt (some (f.record s.pc op))

/-- The end of an instruction that began in s and whose opcode is op: its new state, or the fault it raised, taken (R143). -/
def State.commit (s : State) (op : Word) : Except Fault State → Host.Outcome State Fault Refusal
  | .ok t => .next t
  | .error f => .next (s.takeFault (some op) f)

end Sys2Proof.Machine
end

