-- ==== Sys2Proof/Machine/Flags.lean ====
section
/-! DEFINITION. ALU results and the flag VF (R200, R201, R208 to R212): computed exactly on integers, then wrapped to 8 bits; the
flag from the operand values before the instruction. -/

namespace Sys2Proof.Machine

/-- wrap8(v) = v mod 256 (R200). -/
def wrap8 (v : Int) : Byte := BitVec.ofInt 8 v

/-- A flag as the byte written to VF: 0 or 1 (R201, R275). -/
def flagByte (b : Bool) : Byte := if b then 1 else 0

/-- Add: the sum; flag 1 if it exceeds 255 (R208). -/
def aluAdd (a b : Byte) : Byte × Bool := (wrap8 ((a.toNat : Int) + b.toNat), decide (a.toNat + b.toNat > 255))

/-- Subtract a - b: flag 1 if a ≥ b, no borrow (R209; R211 with the operands exchanged). -/
def aluSub (a b : Byte) : Byte × Bool := (wrap8 ((a.toNat : Int) - b.toNat), decide (a.toNat ≥ b.toNat))

/-- ShiftRight by 1, logical: flag the bit 0 before the shift (R210). -/
def aluShr (a : Byte) : Byte × Bool := (a >>> 1, a.getLsbD 0)

/-- ShiftLeft by 1: flag the bit 7 before the shift (R212). -/
def aluShl (a : Byte) : Byte × Bool := (wrap8 ((a.toNat <<< 1 : Nat) : Int), a.getLsbD 7)

/-- The result to V[x] first, the flag to VF second (R201, D4; log entry 10). -/
def State.setResultAndFlag (s : State) (x : RegIdx) (out : Byte × Bool) : State :=
  (s.setV x out.1).setV regF (flagByte out.2)

end Sys2Proof.Machine
end

