-- ==== Sys2Proof/Machine/Operands.lean ====
section
/-! DEFINITION. The operand forms (R246, R101): immediates at their own width, the register list V0 to Vx, and the decimal
digits of a byte. -/

namespace Sys2Proof.Machine

/-- zext_16 of an address field (R9, R101). -/
def zextAddr (nnn : Addr12) : Word := nnn.setWidth 16

/-- zext_16 of a byte (R9). -/
def zextByte (b : Byte) : Word := b.setWidth 16

/-- The register of number k, for k below 16. -/
def regOf (k : Nat) : RegIdx := BitVec.ofNat 4 k

/-- The values of V0 to Vx, in ascending register order (R244). -/
def State.regsUpTo (s : State) (x : RegIdx) : List Byte := (List.range (x.toNat + 1)).map (fun k => s.V (regOf k))

/-- Writes a list of bytes to V[k], V[k+1], … in ascending register order (R245). -/
def State.setVs : State → Nat → List Byte → State
  | s, _, [] => s
  | s, k, b :: bs => State.setVs (s.setV (regOf k) b) (k + 1) bs

/-- The three decimal digits of a byte: hundreds, tens, ones (R243). -/
def bcdDigits (b : Byte) : List Byte :=
  [BitVec.ofNat 8 (b.toNat / 100), BitVec.ofNat 8 (b.toNat / 10 % 10), BitVec.ofNat 8 (b.toNat % 10)]

/-- The font address of a digit: V[x] × 5, not masked (R242). -/
def glyphAddr (b : Byte) : Word := zextByte b * 5

end Sys2Proof.Machine
end

