-- ==== Sys2Proof/Machine/Alu.lean ====
section
/-! DEFINITION. Register assignment, ALU and random (43_alu.md). -/

namespace Sys2Proof.Machine

/-- The body of an ALU instruction whose sub-opcode is unrecognised: always UnknownAluSubOpcode, kind 3 (R213). -/
def State.raiseUnknownAlu (s : State) (op : Word) : Host.Outcome State Fault Refusal :=
  s.commit op (.error .unknownAluSubOpcode)

/-- The body of RND for a given draw r: V[x] <- r & nn (R214). -/
def State.setMaskedDraw (s : State) (x : RegIdx) (nn r : Byte) : State := s.setV x (r &&& nn)

/-- 6XNN LD Vx, nn (R202). -/
def execLdVxNn (x : RegIdx) (nn : Byte) (s : State) : Host.Outcome State Fault Refusal :=
  .next (s.advance.setV x nn)

/-- 7XNN ADD Vx, nn: no flag (R203). -/
def execAddVxNn (x : RegIdx) (nn : Byte) (s : State) : Host.Outcome State Fault Refusal :=
  .next (s.advance.setV x (wrap8 ((s.V x).toNat + nn.toNat)))

/-- 8XY0 LD Vx, Vy (R204). -/
def execLdVxVy (x y : RegIdx) (s : State) : Host.Outcome State Fault Refusal :=
  .next (s.advance.setV x (s.V y))

/-- 8XY1 OR (R205). -/
def execOr (x y : RegIdx) (s : State) : Host.Outcome State Fault Refusal :=
  .next (s.advance.setV x (s.V x ||| s.V y))

/-- 8XY2 AND (R206). -/
def execAnd (x y : RegIdx) (s : State) : Host.Outcome State Fault Refusal :=
  .next (s.advance.setV x (s.V x &&& s.V y))

/-- 8XY3 XOR (R207). -/
def execXor (x y : RegIdx) (s : State) : Host.Outcome State Fault Refusal :=
  .next (s.advance.setV x (s.V x ^^^ s.V y))

/-- 8XY4 ADD Vx, Vy (R208). -/
def execAddVxVy (x y : RegIdx) (s : State) : Host.Outcome State Fault Refusal :=
  .next (s.advance.setResultAndFlag x (aluAdd (s.V x) (s.V y)))

/-- 8XY5 SUB: VX - VY (R209). -/
def execSub (x y : RegIdx) (s : State) : Host.Outcome State Fault Refusal :=
  .next (s.advance.setResultAndFlag x (aluSub (s.V x) (s.V y)))

/-- 8XY6 SHR: shifts V[x]; V[y] is not read (R210, D3; log entry 9). -/
def execShr (x _y : RegIdx) (s : State) : Host.Outcome State Fault Refusal :=
  .next (s.advance.setResultAndFlag x (aluShr (s.V x)))

/-- 8XY7 SUBN: VY - VX (R211). -/
def execSubn (x y : RegIdx) (s : State) : Host.Outcome State Fault Refusal :=
  .next (s.advance.setResultAndFlag x (aluSub (s.V y) (s.V x)))

/-- 8XYE SHL: shifts V[x]; V[y] is not read (R212, D3; log entry 9). -/
def execShl (x _y : RegIdx) (s : State) : Host.Outcome State Fault Refusal :=
  .next (s.advance.setResultAndFlag x (aluShl (s.V x)))

/-- 8XY8: unknown ALU sub-opcode (R213). -/
def execAluUnknown8 (x y : RegIdx) (s : State) : Host.Outcome State Fault Refusal :=
  s.raiseUnknownAlu (encode (.aluUnknown8 x y))

/-- 8XY9: unknown ALU sub-opcode (R213). -/
def execAluUnknown9 (x y : RegIdx) (s : State) : Host.Outcome State Fault Refusal :=
  s.raiseUnknownAlu (encode (.aluUnknown9 x y))

/-- 8XYA: unknown ALU sub-opcode (R213). -/
def execAluUnknownA (x y : RegIdx) (s : State) : Host.Outcome State Fault Refusal :=
  s.raiseUnknownAlu (encode (.aluUnknownA x y))

/-- 8XYB: unknown ALU sub-opcode (R213). -/
def execAluUnknownB (x y : RegIdx) (s : State) : Host.Outcome State Fault Refusal :=
  s.raiseUnknownAlu (encode (.aluUnknownB x y))

/-- 8XYC: unknown ALU sub-opcode (R213). -/
def execAluUnknownC (x y : RegIdx) (s : State) : Host.Outcome State Fault Refusal :=
  s.raiseUnknownAlu (encode (.aluUnknownC x y))

/-- 8XYD: unknown ALU sub-opcode (R213). -/
def execAluUnknownD (x y : RegIdx) (s : State) : Host.Outcome State Fault Refusal :=
  s.raiseUnknownAlu (encode (.aluUnknownD x y))

/-- 8XYF: unknown ALU sub-opcode (R213). -/
def execAluUnknownF (x y : RegIdx) (s : State) : Host.Outcome State Fault Refusal :=
  s.raiseUnknownAlu (encode (.aluUnknownF x y))

/-- CXNN RND: the draw is the free value `Config.draw` of the counter, which moves on (R214, R146, D21; log entry 4). -/
def execRnd (x : RegIdx) (nn : Byte) (s : State) : Host.Outcome State Fault Refusal :=
  .next (s.advance.setMaskedDraw x nn (Config.draw s.draws)).bumpDraws

end Sys2Proof.Machine
end

