-- ==== Sys2Proof/Machine/ControlFlow.lean ====
section
/-! DEFINITION. Control flow (41_control_flow.md). Every meaning starts in the state whose PC is pc0, the instruction's own
address, and does the advance of R141 itself (log entry 2). -/

namespace Sys2Proof.Machine

/-- The body of RET: a <- Pop(); pc <- a (R160). -/
def State.returnToCaller (s : State) : Except Fault State :=
  match s.pop with
  | .error f => .error f
  | .ok (a, s1) => .ok (s1.setPc a)

/-- The body of CALL on a stack of the given depth: Push(PC); pc <- zext_16(nnn) (R163). -/
def State.callTo (depth : Nat) (nnn : Addr12) (s : State) : Except Fault State :=
  match s.push depth s.pc with
  | .error f => .error f
  | .ok s1 => .ok (s1.setPc (zextAddr nnn))

/-- 00EE RET (R160). -/
def execRet (s : State) : Host.Outcome State Fault Refusal :=
  s.commit (encode .ret) s.advance.returnToCaller

/-- 0NNN SYS: always UnsupportedFeature, kind 1 (R161). -/
def execSys (nnn : Addr12) (s : State) : Host.Outcome State Fault Refusal :=
  s.commit (encode (.sys nnn)) (.error .unsupportedFeature)

/-- 1NNN JP (R162). -/
def execJp (nnn : Addr12) (s : State) : Host.Outcome State Fault Refusal :=
  .next (s.advance.setPc (zextAddr nnn))

/-- 2NNN CALL: the pushed PC is the advanced one, pc0 + 2 (R163, R141). -/
def execCall (nnn : Addr12) (s : State) : Host.Outcome State Fault Refusal :=
  s.commit (encode (.call nnn)) (s.advance.callTo Params.stackDepth nnn)

/-- BNNN JP V0: the sum is not masked to 12 bits (R164, D15). -/
def execJpV0 (nnn : Addr12) (s : State) : Host.Outcome State Fault Refusal :=
  .next (s.advance.setPc (zextByte (s.V 0x0) + zextAddr nnn))

end Sys2Proof.Machine
end

