-- ==== Sys2Proof/Machine/Draw.lean ====
section
/-! DEFINITION. The display instructions (45_display.md): clear and draw. -/

namespace Sys2Proof.Machine

/-- The body of DXYN: all n reads first, then the compositing, then VF (R275). -/
def State.drawFrom (cx cy : Byte) (n : Nibble) (s : State) : Except Fault State :=
  match s.readBytes s.iReg.toNat n.toNat with
  | .error f => .error f
  | .ok rows =>
    .ok ((s.setDisp (s.disp.drawSprite cx.toNat cy.toNat rows).1).setV regF
      (flagByte (s.disp.drawSprite cx.toNat cy.toNat rows).2))

/-- 00E0 CLS (R274). -/
def execCls (s : State) : Host.Outcome State Fault Refusal :=
  .next (s.advance.setDisp Display.clear)

/-- DXYN DRW: the coordinates are the values V[x] and V[y] (R275, C2). -/
def execDrw (x y : RegIdx) (n : Nibble) (s : State) : Host.Outcome State Fault Refusal :=
  s.commit (encode (.drw x y n)) (s.advance.drawFrom (s.V x) (s.V y) n)

end Sys2Proof.Machine
end

