-- ==== Sys2Proof/Machine/IndexMemory.lean ====
section
/-! DEFINITION. The address register, BCD, and register dump and load (44_index_memory.md). None changes I but the first three
(R246, D6; log entry 12). -/

namespace Sys2Proof.Machine

/-- The body of FX65: reads x + 1 bytes from I, then loads them into V0 to Vx (R245). -/
def State.loadRegs (x : RegIdx) (s : State) : Except Fault State :=
  match s.readBytes s.iReg.toNat (x.toNat + 1) with
  | .error f => .error f
  | .ok bs => .ok (s.setVs 0 bs)

/-- ANNN LD I, nnn (R240). -/
def execLdI (nnn : Addr12) (s : State) : Host.Outcome State Fault Refusal :=
  .next (s.advance.setI (zextAddr nnn))

/-- FX1E ADD I, Vx: modulo 2^16, no flag (R241, D5; log entry 11). -/
def execAddIVx (x : RegIdx) (s : State) : Host.Outcome State Fault Refusal :=
  .next (s.advance.setI (s.iReg + zextByte (s.V x)))

/-- FX29 LD F, Vx (R242). -/
def execLdFVx (x : RegIdx) (s : State) : Host.Outcome State Fault Refusal :=
  .next (s.advance.setI (glyphAddr (s.V x)))

/-- FX33 LD B, Vx (R243). -/
def execLdBVx (x : RegIdx) (s : State) : Host.Outcome State Fault Refusal :=
  s.commit (encode (.ldBVx x)) (s.advance.writeBytes s.iReg.toNat (bcdDigits (s.V x)))

/-- FX55 LD [I], Vx: the count is the nibble X (R244, C3). -/
def execLdMemIVx (x : RegIdx) (s : State) : Host.Outcome State Fault Refusal :=
  s.commit (encode (.ldMemIVx x)) (s.advance.writeBytes s.iReg.toNat (s.regsUpTo x))

/-- FX65 LD Vx, [I]: the count is the nibble X (R245, C3). -/
def execLdVxMemI (x : RegIdx) (s : State) : Host.Outcome State Fault Refusal :=
  s.commit (encode (.ldVxMemI x)) (s.advance.loadRegs x)

end Sys2Proof.Machine
end

