-- ==== Sys2Proof/Machine/Skips.lean ====
section
/-! DEFINITION. Conditional skips (42_skips.md): R180 with the test of each rule. -/

namespace Sys2Proof.Machine

/-- The body of SKP and SKNP: skip when the key V[x] is held as wanted; a key value of 16 or more raises (R185, R186, R300). -/
def State.skipOnKey (held : Bool) (k : Byte) (s : State) : Except Fault State :=
  match s.keyHeld k with
  | .error f => .error f
  | .ok b => .ok (s.skipIf (b == held))

/-- 3XNN SE Vx, nn (R181). -/
def execSeVxNn (x : RegIdx) (nn : Byte) (s : State) : Host.Outcome State Fault Refusal :=
  .next (s.advance.skipIf (s.V x == nn))

/-- 4XNN SNE Vx, nn (R182). -/
def execSneVxNn (x : RegIdx) (nn : Byte) (s : State) : Host.Outcome State Fault Refusal :=
  .next (s.advance.skipIf (s.V x != nn))

/-- 5XY0 SE Vx, Vy (R183). -/
def execSeVxVy (x y : RegIdx) (s : State) : Host.Outcome State Fault Refusal :=
  .next (s.advance.skipIf (s.V x == s.V y))

/-- 9XY0 SNE Vx, Vy (R184). -/
def execSneVxVy (x y : RegIdx) (s : State) : Host.Outcome State Fault Refusal :=
  .next (s.advance.skipIf (s.V x != s.V y))

/-- EX9E SKP: the key index is the value V[x] (R185). -/
def execSkp (x : RegIdx) (s : State) : Host.Outcome State Fault Refusal :=
  s.commit (encode (.skp x)) (s.advance.skipOnKey true (s.V x))

/-- EXA1 SKNP (R186). -/
def execSknp (x : RegIdx) (s : State) : Host.Outcome State Fault Refusal :=
  s.commit (encode (.sknp x)) (s.advance.skipOnKey false (s.V x))

end Sys2Proof.Machine
end

