-- ==== Sys2Proof/Machine/TimersInput.lean ====
section
/-! DEFINITION. Timers and key input (46_timers_input.md). -/

namespace Sys2Proof.Machine

/-- The body of FX0A, from the advanced PC: with no key held PC goes back by 2, else V[x] is the first held key (R304). -/
def State.waitKey (x : RegIdx) (s : State) : State :=
  match s.firstHeld with
  | none => s.setPc (s.pc - 2)
  | some k => s.setV x (BitVec.ofNat 8 k)

/-- FX07 LD Vx, DT (R302). -/
def execLdVxDt (x : RegIdx) (s : State) : Host.Outcome State Fault Refusal :=
  .next (s.advance.setV x s.dt)

/-- FX0A LD Vx, K (R304). -/
def execLdVxK (x : RegIdx) (s : State) : Host.Outcome State Fault Refusal :=
  .next (s.advance.waitKey x)

/-- FX15 LD DT, Vx (R305). -/
def execLdDtVx (x : RegIdx) (s : State) : Host.Outcome State Fault Refusal :=
  .next (s.advance.setDt (s.V x))

/-- FX18 LD ST, Vx (R306). -/
def execLdStVx (x : RegIdx) (s : State) : Host.Outcome State Fault Refusal :=
  .next (s.advance.setSt (s.V x))

end Sys2Proof.Machine
end

