-- ==== Sys2Proof/Machine/Cycle.lean ====
section
/-! DEFINITION. The execution step (40_step_cycle.md): halted check, fetch, decode, execute, in the order of R324. -/

namespace Sys2Proof.Machine

/-- What a decoded opcode does from the state at pc0: a table row is executed, `Unknown` raises DecodeFailure (R142). -/
def State.runDecoded (s : State) : Decoded → Host.Outcome State Fault Refusal
  | .known i => exec i s
  | .unknown op => s.commit op (.error .decodeFailure)

/-- step() (R140). A halted step changes nothing (R144); a fetch that raises is taken with no opcode in the record (R321). The
result of the call, Ok or Err(record), is the HALT of the next state (R145; `stepResult` of Machine/HostOps.lean, log entry 1). -/
def State.cycle (s : State) : Host.Outcome State Fault Refusal :=
  match s.halt with
  | some _ => .next s
  | none =>
    match s.fetchOpcode with
    | .error f => .next (s.takeFault none f)
    | .ok op => s.runDecoded (decode op)

/-- A state whose next step fetches from PC: not halted, and PC an address whose two bytes exist (R64, R144); where PC is past
the end, it goes to the program base (log entry 26). -/
def State.readyToFetch (s : State) : State :=
  (if s.pc.toNat + 1 < Config.memSize then s else s.setPc (BitVec.ofNat 16 Config.programBase)).setHalt none

/-- The opcode stored at PC, high byte first (R64). -/
def State.storeOpcode (s : State) (op : Word) : State :=
  s.setMem (s.mem.putBytes s.pc.toNat [highByte op, lowByte op])

end Sys2Proof.Machine
end

