-- ==== Sys2Proof/Machine/Step.lean ====
section
/-! DEFINITION. The step of the machine, and the placing of one instruction where the next step fetches it. -/

namespace Sys2Proof.Machine

/-- step() of the engine (R140). -/
def step (s : State) : Host.Outcome State Fault Refusal := s.cycle

/-- s with the table word stored where the next step fetches (log entries 25, 26). -/
def State.withFetchWord (s : State) (nbits w : Nat) : State := s.readyToFetch.storeOpcode (tableWord nbits w)

end Sys2Proof.Machine
end

