-- ==== Sys2Proof/Machine/HostOps.lean ====
section
/-! DEFINITION. The host surface (R340): every call the host can make, its effect on the state and what it returns. Each is an
atomic transaction between steps (R68, R73). -/

namespace Sys2Proof.Machine

/-- The host errors; they are not faults and do not halt the VM (R340, D19, D20). -/
inductive HostError where
  /-- `load_program` of a padded image longer than 0xE00 bytes (R373). -/
  | programTooLarge
  /-- `set_key_state` with an index of 16 or more (R332). -/
  | keyIndexOutOfRange
  deriving DecidableEq, Repr

/-- The three read views of R276. -/
inductive DisplayView where
  | matrix
  | flat
  | text
  deriving DecidableEq, Repr

/-- A call of the host surface (R3, R340). -/
inductive HostCall where
  | reset
  | loadProgram (bytes : List Byte)
  | step
  | tickTimers
  | setKeyState (index : Nat) (held : Bool)
  | readDisplay (view : DisplayView)
  | soundActive
  deriving DecidableEq, Repr

/-- What a call returns (R340). -/
inductive HostResult where
  /-- No value: `reset()`, `tick_timers()`. -/
  | nothing
  /-- Ok. -/
  | ok
  /-- Err(record) of `step()` (R145). -/
  | err (r : FaultRecord)
  /-- A host error; the call changed nothing. -/
  | hostErr (e : HostError)
  /-- The matrix view. -/
  | matrix (d : Display)
  /-- The flattened view. -/
  | flat (bytes : List Byte)
  /-- The string view. -/
  | text (t : String)
  /-- `sound_active()`. -/
  | bool (b : Bool)
  /-- The model's own: the step ended in a fault or a refusal of the model. No step does. -/
  | stopped
  deriving DecidableEq, Repr

/-- `reset()`: the whole state to its reset values (R370). The counter of draws is not the block's state and goes on, so that
the draws after a reset are fresh (log entry 4). -/
def hostReset (s : State) : State := { State.reset with draws := s.draws }

/-- An odd-length image gets one zero byte at its end (R373). -/
def padProgram (bytes : List Byte) : List Byte := if bytes.length % 2 = 1 then bytes ++ [0] else bytes

/-- `load_program(bytes)` (R373, D19). -/
def loadProgram (bytes : List Byte) (s : State) : State × HostResult :=
  if (padProgram bytes).length > Config.maxProgram then (s, .hostErr .programTooLarge)
  else (s.setMem (s.mem.putBytes Config.programBase (padProgram bytes)), .ok)

/-- A timer's tick: down by 1 unless it is 0 (R330). -/
def tickDown (t : Byte) : Byte := if t.toNat > 0 then t - 1 else t

/-- `tick_timers()`; allowed in the halted state too (R330, D23). -/
def tickTimers (s : State) : State := (s.setDt (tickDown s.dt)).setSt (tickDown s.st)

/-- `set_key_state(index, held)` (R332, D20). -/
def setKeyState (index : Nat) (held : Bool) (s : State) : State × HostResult :=
  if h : index < 16 then (s.setKeys (s.key.set index held h), .ok) else (s, .hostErr .keyIndexOutOfRange)

/-- `sound_active()`: ST > 0 (R331). -/
def soundActive (s : State) : Bool := decide (s.st.toNat > 0)

/-- `read_display()` in one of its views (R276). -/
def readDisplay (view : DisplayView) (s : State) : HostResult :=
  match view with
  | .matrix => .matrix s.disp
  | .flat => .flat s.disp.flat
  | .text => .text s.disp.text

/-- The result of a step that led to t: Ok, or Err of the record HALT holds (R143, R144, R145; log entry 1). -/
def stepResult (t : State) : HostResult :=
  match t.halt with
  | none => .ok
  | some r => .err r

/-- A call's effect and result (R340). -/
def hostCall (c : HostCall) (s : State) : State × HostResult :=
  match c with
  | .reset => (hostReset s, .nothing)
  | .loadProgram bytes => loadProgram bytes s
  | .step =>
    match step s with
    | .next t => (t, stepResult t)
    | .fault _ => (s, .stopped)
    | .refused _ => (s, .stopped)
  | .tickTimers => (tickTimers s, .nothing)
  | .setKeyState index held => setKeyState index held s
  | .readDisplay view => (s, readDisplay view s)
  | .soundActive => (s, .bool (soundActive s))

end Sys2Proof.Machine
end

