-- ==== Sys2Proof/Safety.lean ====
section
/-! DEFINITION. The terms claims use: what an instruction leaves unchanged, how it faults, the invariant of the block, and the
end of a run (R148). -/

namespace Sys2Proof.Machine

/-! ### Frames -/

/-- The pieces of state (10_state.md), and the model's own counter of draws. -/
inductive Part where
  | v
  | iReg
  | pc
  | sp
  | dt
  | st
  | key
  | disp
  | mem
  | halt
  | draws
  deriving DecidableEq, Repr

/-- The piece reads the same in both states: memory by every byte, the display by every pixel, V by every register, KEY by
every flag. -/
def Part.same (s t : State) : Part → Prop
  | .v => ∀ r, t.V r = s.V r
  | .iReg => t.iReg = s.iReg
  | .pc => t.pc = s.pc
  | .sp => t.sp = s.sp
  | .dt => t.dt = s.dt
  | .st => t.st = s.st
  | .key => ∀ k, t.keyFlag k = s.keyFlag k
  | .disp => ∀ x y, t.disp.pixel x y = s.disp.pixel x y
  | .mem => ∀ a, t.mem.byte a = s.mem.byte a
  | .halt => t.halt = s.halt
  | .draws => t.draws = s.draws

/-- Every piece of state but the listed ones is unchanged. -/
def ChangesOnly (parts : List Part) (s t : State) : Prop := ∀ p, p ∉ parts → p.same s t

/-- Every register but x is unchanged. -/
def OtherRegsSame (x : RegIdx) (s t : State) : Prop := ∀ r, r ≠ x → t.V r = s.V r

/-- Every register but x and VF is unchanged. -/
def OtherRegsSameButF (x : RegIdx) (s t : State) : Prop := ∀ r, r ≠ x → r ≠ 0xF → t.V r = s.V r

/-- Every byte outside the n bytes from lo is unchanged. -/
def OtherBytesSame (lo n : Nat) (s t : State) : Prop := ∀ a, (a < lo ∨ lo + n ≤ a) → t.mem.byte a = s.mem.byte a

/-- PC has gone forward by n, as integers, where that stays below 2^16 (as it does for every instruction that can be fetched);
the wrap at 2^16 is not said here. -/
def PcForward (n : Nat) (s t : State) : Prop := s.pc.toNat + n < 65536 → t.pc.toNat = s.pc.toNat + n

/-! ### Which registers an instruction reads and writes -/

/-- The "reads" column of the table of R22. -/
def regReads : Instr → RegIdx → Bool
  | .seVxNn x _, r | .sneVxNn x _, r | .addVxNn x _, r => r == x
  | .seVxVy x y, r | .sneVxVy x y, r | .drw x y _, r => r == x || r == y
  | .ldVxVy _ y, r => r == y
  | .or x y, r | .and x y, r | .xor x y, r | .addVxVy x y, r | .sub x y, r | .subn x y, r => r == x || r == y
  | .shr x _, r | .shl x _, r => r == x
  | .jpV0 _, r => r == 0x0
  | .skp x, r | .sknp x, r | .ldDtVx x, r | .ldStVx x, r | .addIVx x, r | .ldFVx x, r | .ldBVx x, r => r == x
  | .ldMemIVx x, r => decide (r.toNat ≤ x.toNat)
  | .ldVxNn _ _, _ | .rnd _ _, _ | .ldVxDt _, _ | .ldVxK _, _ | .ldVxMemI _, _ => false
  | .cls, _ | .ret, _ | .sys _, _ | .jp _, _ | .call _, _ | .ldI _, _ => false
  | .aluUnknown8 _ _, _ | .aluUnknown9 _ _, _ | .aluUnknownA _ _, _ | .aluUnknownB _ _, _ => false
  | .aluUnknownC _ _, _ | .aluUnknownD _ _, _ | .aluUnknownF _ _, _ => false

/-- The "writes" column of the table of R22. -/
def regWrites : Instr → RegIdx → Bool
  | .ldVxNn x _, r | .addVxNn x _, r | .ldVxVy x _, r | .or x _, r | .and x _, r | .xor x _, r | .rnd x _, r => r == x
  | .addVxVy x _, r | .sub x _, r | .subn x _, r | .shr x _, r | .shl x _, r => r == x || r == 0xF
  | .drw _ _ _, r => r == 0xF
  | .ldVxDt x, r | .ldVxK x, r => r == x
  | .ldVxMemI x, r => decide (r.toNat ≤ x.toNat)
  | .seVxNn _ _, _ | .sneVxNn _ _, _ | .seVxVy _ _, _ | .sneVxVy _ _, _ | .skp _, _ | .sknp _, _ => false
  | .jpV0 _, _ | .ldDtVx _, _ | .ldStVx _, _ | .addIVx _, _ | .ldFVx _, _ | .ldBVx _, _ | .ldMemIVx _, _ => false
  | .cls, _ | .ret, _ | .sys _, _ | .jp _, _ | .call _, _ | .ldI _, _ => false
  | .aluUnknown8 _ _, _ | .aluUnknown9 _ _, _ | .aluUnknownA _ _, _ | .aluUnknownB _ _, _ => false
  | .aluUnknownC _ _, _ | .aluUnknownD _ _, _ | .aluUnknownF _ _, _ => false

/-- The opcode of that number decodes to i; claims write the number as an instruction rule's "Encoding" line does. -/
def EncodedAs (opcode : Nat) (i : Instr) : Prop := decode (BitVec.ofNat 16 opcode) = .known i

/-- The next step of s fetches and runs i: not halted, both bytes at PC exist and decode to i (R140, R64). -/
def Runs (s : State) (i : Instr) : Prop :=
  s.halt = none ∧ s.pc.toNat + 1 < 4096 ∧
    decodeBytes (s.mem.byte s.pc.toNat) (s.mem.byte (s.pc.toNat + 1)) = .known i

/-! ### Faults -/

/-- The instruction takes the fault: HALT becomes the record with pc = PC and the instruction's opcode, and nothing else
changes (R143, R321). -/
def TakesFault (i : Instr) (s : State) (kind : FaultKind) (addr : Option Nat) (value : Option Byte) : Prop :=
  exec i s = .next { s with halt := some { kind := kind, pc := s.pc, opcode := some (encode i), addr := addr, value := value } }

/-! ### The invariant of the block -/

/-- What R321 says of a record's fields: addr for kind 4 only, out of range and below 2^17; value for kind 7 only, 16 or more;
no opcode only for a fetch fault. -/
def FaultRecord.Sound (r : FaultRecord) : Prop :=
  (r.kind = .memoryAddress ↔ r.addr ≠ none) ∧
  (r.kind = .keyIndex ↔ r.value ≠ none) ∧
  (r.opcode = none → r.kind = .memoryAddress ∧ 0xFFF ≤ r.pc.toNat) ∧
  (∀ a, r.addr = some a → 4096 ≤ a ∧ a < 2 ^ 17) ∧
  (∀ k, r.value = some k → 16 ≤ k.toNat)

/-- The stack pointer is at 0x0EFF - 2k for some number k of entries up to STACK_DEPTH (R69, R71). -/
def StackInRange (s : State) : Prop := ∃ k, k ≤ Params.stackDepth ∧ s.sp.toNat + 2 * k = 0x0EFF

/-- A halted state's record is sound, and PC is still the address of the faulting instruction (R143, R321). -/
def HaltRecordSound (s : State) : Prop := ∀ r, s.halt = some r → r.pc = s.pc ∧ r.Sound

/-- The invariant every operation of the block keeps: memory in canonical form, SP in its range, HALT's record sound. -/
structure Inv (s : State) : Prop where
  memory : s.mem.wf = true
  stack : StackInRange s
  record : HaltRecordSound s

/-! ### The end of a run (R148) -/

/-- Ended faulted: HALT holds a record. -/
def Faulted (s : State) : Prop := s.halt ≠ none

/-- Ended parked: not halted, and the instruction at PC is a jump to its own address. -/
def Parked (s : State) : Prop :=
  s.halt = none ∧ ∃ op nnn, s.fetchOpcode = .ok op ∧ decode op = .known (.jp nnn) ∧ zextAddr nnn = s.pc

/-- A safe state: the invariant holds and no fault has been taken. -/
def Safe (s : State) : Prop := Inv s ∧ s.halt = none

end Sys2Proof.Machine
end

