-- ==== Sys2Proof/Certificates/Slice0/Obligations.lean ====
section
/-! DEFINITION. The statements for the provers. Each docstring names the rule or section it formalises; where a clause rests on a
decision of 92_eei_decisions.md or on a choice of this model, it names the decision and the log entry. -/

open Sys2Proof
open Sys2Proof.Machine

/-! ### Encoding -/

/-- Every well-formed instruction decodes from its own encoding, with every operand at every value (R101, R103, R104; which
5XYN, 9XYN decode rests on D2, log entry 15). -/
def Obligations.DecodeOfEncode : Prop :=
  ∀ i : Instr, i.wellFormed = true → decode (encode i) = .known i

/-- Every opcode that decodes to an instruction is that instruction's encoding, and the instruction is well formed: no opcode bit
is dropped, and the record's opcode is the fetched one (R102, R103; log entry 3). For 5XYN and 9XYN it rests on the decision that N
other than 0 is no instruction (D2, log entry 15). -/
def Obligations.EncodeOfDecode : Prop :=
  ∀ (op : Word) (i : Instr), decode op = .known i → encode i = op ∧ i.wellFormed = true

/-- Exactly the opcodes listed in 30_encoding.md section 2 (R105) are unknown, each carrying itself (5XYN, 9XYN by D2). -/
def Obligations.UnknownOpcodesExactly : Prop :=
  (∀ op op' : Word, decode op = .unknown op' → op' = op) ∧
  (∀ op : Word, decode op = .unknown op ↔
    ((op.toNat / 4096 = 0x5 ∨ op.toNat / 4096 = 0x9) ∧ op.toNat % 16 ≠ 0) ∨
    (op.toNat / 4096 = 0xE ∧ op.toNat % 256 ∉ [0x9E, 0xA1]) ∨
    (op.toNat / 4096 = 0xF ∧ op.toNat % 256 ∉ [0x07, 0x0A, 0x15, 0x18, 0x1E, 0x29, 0x33, 0x55, 0x65]))

/-- Words written out from the spec's encodings decode to what they stand for (30_encoding.md section 2; 95_test_vectors.md L1, L2,
L3); that 0x5121 is unknown is decision D2 itself (log entry 15). -/
def Obligations.WrittenWordsDecode : Prop :=
  decode 0x00E0 = .known .cls ∧ decode 0x00E1 = .known (.sys 0x0E1) ∧ decode 0x1234 = .known (.jp 0x234) ∧
  decode 0x5120 = .known (.seVxVy 0x1 0x2) ∧ decode 0x8AB4 = .known (.addVxVy 0xA 0xB) ∧
  decode 0x8128 = .known (.aluUnknown8 0x1 0x2) ∧ decode 0xD125 = .known (.drw 0x1 0x2 0x5) ∧
  decode 0xF529 = .known (.ldFVx 0x5) ∧ decode 0xFF65 = .known (.ldVxMemI 0xF) ∧ decode 0x5121 = .unknown 0x5121

/-- Every opcode written as its instruction rule's "Encoding" line writes it, with every value of its operands, decodes to that
instruction: the decode table of 30_encoding.md section 2, read operand by operand. -/
def Obligations.EncodingsOfEveryRule : Prop :=
  ∀ (nnn : Addr12) (x y : RegIdx) (nn : Byte) (n : Nibble),
    EncodedAs 0x00E0 .cls ∧
    EncodedAs 0x00EE .ret ∧
    (nnn ≠ 0x0E0 → nnn ≠ 0x0EE → EncodedAs (0x0000 + nnn.toNat) (.sys nnn)) ∧
    EncodedAs (0x1000 + nnn.toNat) (.jp nnn) ∧
    EncodedAs (0x2000 + nnn.toNat) (.call nnn) ∧
    EncodedAs (0x3000 + x.toNat * 256 + nn.toNat) (.seVxNn x nn) ∧
    EncodedAs (0x4000 + x.toNat * 256 + nn.toNat) (.sneVxNn x nn) ∧
    EncodedAs (0x5000 + x.toNat * 256 + y.toNat * 16) (.seVxVy x y) ∧
    EncodedAs (0x6000 + x.toNat * 256 + nn.toNat) (.ldVxNn x nn) ∧
    EncodedAs (0x7000 + x.toNat * 256 + nn.toNat) (.addVxNn x nn) ∧
    EncodedAs (0x8000 + x.toNat * 256 + y.toNat * 16) (.ldVxVy x y) ∧
    EncodedAs (0x8001 + x.toNat * 256 + y.toNat * 16) (.or x y) ∧
    EncodedAs (0x8002 + x.toNat * 256 + y.toNat * 16) (.and x y) ∧
    EncodedAs (0x8003 + x.toNat * 256 + y.toNat * 16) (.xor x y) ∧
    EncodedAs (0x8004 + x.toNat * 256 + y.toNat * 16) (.addVxVy x y) ∧
    EncodedAs (0x8005 + x.toNat * 256 + y.toNat * 16) (.sub x y) ∧
    EncodedAs (0x8006 + x.toNat * 256 + y.toNat * 16) (.shr x y) ∧
    EncodedAs (0x8007 + x.toNat * 256 + y.toNat * 16) (.subn x y) ∧
    EncodedAs (0x800E + x.toNat * 256 + y.toNat * 16) (.shl x y) ∧
    EncodedAs (0x8008 + x.toNat * 256 + y.toNat * 16) (.aluUnknown8 x y) ∧
    EncodedAs (0x8009 + x.toNat * 256 + y.toNat * 16) (.aluUnknown9 x y) ∧
    EncodedAs (0x800A + x.toNat * 256 + y.toNat * 16) (.aluUnknownA x y) ∧
    EncodedAs (0x800B + x.toNat * 256 + y.toNat * 16) (.aluUnknownB x y) ∧
    EncodedAs (0x800C + x.toNat * 256 + y.toNat * 16) (.aluUnknownC x y) ∧
    EncodedAs (0x800D + x.toNat * 256 + y.toNat * 16) (.aluUnknownD x y) ∧
    EncodedAs (0x800F + x.toNat * 256 + y.toNat * 16) (.aluUnknownF x y) ∧
    EncodedAs (0x9000 + x.toNat * 256 + y.toNat * 16) (.sneVxVy x y) ∧
    EncodedAs (0xA000 + nnn.toNat) (.ldI nnn) ∧
    EncodedAs (0xB000 + nnn.toNat) (.jpV0 nnn) ∧
    EncodedAs (0xC000 + x.toNat * 256 + nn.toNat) (.rnd x nn) ∧
    EncodedAs (0xD000 + x.toNat * 256 + y.toNat * 16 + n.toNat) (.drw x y n) ∧
    EncodedAs (0xE09E + x.toNat * 256) (.skp x) ∧
    EncodedAs (0xE0A1 + x.toNat * 256) (.sknp x) ∧
    EncodedAs (0xF007 + x.toNat * 256) (.ldVxDt x) ∧
    EncodedAs (0xF00A + x.toNat * 256) (.ldVxK x) ∧
    EncodedAs (0xF015 + x.toNat * 256) (.ldDtVx x) ∧
    EncodedAs (0xF018 + x.toNat * 256) (.ldStVx x) ∧
    EncodedAs (0xF01E + x.toNat * 256) (.addIVx x) ∧
    EncodedAs (0xF029 + x.toNat * 256) (.ldFVx x) ∧
    EncodedAs (0xF033 + x.toNat * 256) (.ldBVx x) ∧
    EncodedAs (0xF055 + x.toNat * 256) (.ldMemIVx x) ∧
    EncodedAs (0xF065 + x.toNat * 256) (.ldVxMemI x)

/-! ### The step -/

/-- When the two bytes at PC decode to i, the step is exec of i; the meaning itself does the advance of R141 (40_step_cycle.md
R140; that a halted step does not come here rests on D13, log entry 17). -/
def Obligations.StepRunsDecodedInstruction : Prop :=
  ∀ (s : State) (i : Instr), Runs s i → step s = exec i s

/-- When the two bytes at PC decode to Unknown(op), the step takes the fault of kind 2 with that opcode, which is the one the two
bytes make, and changes nothing else (40_step_cycle.md section on raise, D12, D14; log entries 17, 18). -/
def Obligations.UnknownOpcodeFaults : Prop :=
  ∀ (s : State) (op : Word), s.halt = none → s.pc.toNat + 1 < 4096 →
    decodeBytes (s.mem.byte s.pc.toNat) (s.mem.byte (s.pc.toNat + 1)) = .unknown op →
    op.toNat = (s.mem.byte s.pc.toNat).toNat * 256 + (s.mem.byte (s.pc.toNat + 1)).toNat ∧
    step s = .next { s with halt := some { kind := .decodeFailure, pc := s.pc, opcode := some op, addr := none, value := none } }

/-- A fetch at 0xFFF or above takes the fault of kind 4 without an opcode, at the lowest address out of range (20_memory.md
section 3, D11, D29; log entry 16). -/
def Obligations.FetchPastTheEndFaults : Prop :=
  ∀ s : State, s.halt = none → 0xFFF ≤ s.pc.toNat →
    step s = .next { s with
      halt := some { kind := .memoryAddress, pc := s.pc, opcode := none, addr := some (max s.pc.toNat 4096), value := none } }

/-- No instruction and no step ends in a fault or a refusal of the model: there is always a next state, and a host call of
step() answers Ok exactly when that state is not halted, else Err of its record (40_step_cycle.md R145; log entry 1). -/
def Obligations.EveryStepAnswersNext : Prop :=
  (∀ (i : Instr) (s : State), ∃ t, exec i s = .next t) ∧
  (∀ s : State, ∃ t, step s = .next t ∧ (hostCall .step s).1 = t ∧
    ((hostCall .step s).2 = .ok ↔ t.halt = none) ∧ (∀ r, (hostCall .step s).2 = .err r ↔ t.halt = some r))

/-- A halted VM stays as it is: a step, and every number of steps, changes nothing and returns the same record (40_step_cycle.md
section on the halt, D13; log entry 17). -/
def Obligations.HaltIsSticky : Prop :=
  ∀ (s : State) (r : FaultRecord) (n : Nat), s.halt = some r →
    Host.Core.run core n s = .next s ∧ hostCall .step s = (s, .err r)

/-- A faulting step commits nothing: whatever instruction raised, all the state but HALT is what it was, and the record's pc is
PC, the address of the faulting instruction (40_step_cycle.md section on raise, D12; log entry 17). -/
def Obligations.FaultingStepCommitsNothing : Prop :=
  ∀ (s t : State) (r : FaultRecord), s.halt = none → step s = .next t → t.halt = some r →
    t = { s with halt := some r } ∧ r.pc = s.pc

/-! ### The invariant -/

/-- Every step keeps the invariant: memory canonical (the model's own choice of form, DESIGN CHOICE, log entry 28), SP at 0x0EFF - 2k
with k up to STACK_DEPTH (20_memory.md section 5, D9, D10; log entries 6, 8), HALT's record sound (60_exceptions.md section 1, D14; log
entry 18) with its pc equal to PC (D12; log entry 17). -/
def Obligations.StepKeepsInvariant : Prop :=
  ∀ s t : State, Inv s → step s = .next t → Inv t

/-- The reset state has the invariant, and so has the state after reset() from any state (70_reset_and_hazards.md section 1; the
canonical form of memory is the model's own choice, DESIGN CHOICE, log entry 28). -/
def Obligations.ResetHasInvariant : Prop :=
  Safe State.reset ∧ ∀ s : State, Safe (hostReset s)

/-- Every call of the host keeps the invariant (the calls: 60_exceptions.md section 8, D19, D20, D28; log entries 20, 23). The clauses
of the invariant are not the host table's: canonical memory is the model's own choice of form (DESIGN CHOICE, log entry 28), the stack
clause is 20_memory.md section 5 with D9, D10 (log entries 6, 8), the record clause 60_exceptions.md section 1 with D12, D14 (log
entries 17, 18). -/
def Obligations.HostCallsKeepInvariant : Prop :=
  ∀ (c : HostCall) (s : State), Inv s → Inv (hostCall c s).1

/-! ### Whole-machine rules -/

/-- A step changes the timers only through FX15 and FX18 and never the key latch; and every instruction but the three queries
runs the same whatever the latch holds (R147). -/
def Obligations.TimersAndKeyLatch : Prop :=
  (∀ s t : State, step s = .next t →
    (t.dt ≠ s.dt → ∃ x, Runs s (.ldDtVx x)) ∧ (t.st ≠ s.st → ∃ x, Runs s (.ldStVx x)) ∧ t.key = s.key) ∧
  (∀ (s t : State) (k : Vector Bool 16), step s = .next t →
    (∀ x, ¬ Runs s (.skp x) ∧ ¬ Runs s (.sknp x) ∧ ¬ Runs s (.ldVxK x)) →
    step { s with key := k } = .next { t with key := k })

/-- Only 00E0 and DXYN write the display, only ANNN, FX1E and FX29 write I, only CALL and RET move SP, only CALL, FX33 and FX55
write memory (10_state.md sections 2, 3, 6, D6, D9, D22; 20_memory.md sections 1 and 4); only CXNN takes a draw (log entry 4). -/
def Obligations.WritersOfEachPart : Prop :=
  ∀ (i : Instr) (s t : State), exec i s = .next t →
    (t.disp ≠ s.disp → i = .cls ∨ ∃ x y n, i = .drw x y n) ∧
    (t.iReg ≠ s.iReg → (∃ nnn, i = .ldI nnn) ∨ (∃ x, i = .addIVx x) ∨ ∃ x, i = .ldFVx x) ∧
    (t.sp ≠ s.sp → i = .ret ∨ ∃ nnn, i = .call nnn) ∧
    (t.mem ≠ s.mem → (∃ nnn, i = .call nnn) ∨ (∃ x, i = .ldBVx x) ∨ ∃ x, i = .ldMemIVx x) ∧
    (t.draws ≠ s.draws → ∃ x nn, i = .rnd x nn)

/-- The register table of 10_state.md section 1: a register not in an instruction's "writes" column keeps its value; one not in its
"reads" column has no influence but on itself (Vy of 8XY6 and 8XYE unread by D3, VF written last by D4; log entries 9, 10). -/
def Obligations.RegisterReadsAndWrites : Prop :=
  (∀ (i : Instr) (s t : State) (r : RegIdx), exec i s = .next t → regWrites i r = false → t.V r = s.V r) ∧
  (∀ (i : Instr) (s t : State) (r : RegIdx) (b : Byte), exec i s = .next t → regReads i r = false →
    ∃ v, exec i (s.setV r b) = .next (t.setV r v) ∧ (v = t.V r ∨ (v = b ∧ t.V r = s.V r)) ∧
      (regWrites i r = false → v = b))

/-- A state parked on a jump to its own address is left as it is by every number of steps (40_step_cycle.md, end of a run, D25). -/
def Obligations.ParkedStateStays : Prop :=
  ∀ (s : State) (n : Nat), Parked s → Host.Core.run core n s = .next s

/-- The word placed for the next step is the one it runs, from any state, and only memory, HALT and PC may have been set for it
(20_memory.md section 3; log entries 25, 26). -/
def Obligations.PlacedWordIsRun : Prop :=
  ∀ (s : State) (w : Nat) (i : Instr), decodeTableWord 16 w = some i →
    Runs (s.withFetchWord 16 w) i ∧ step (s.withFetchWord 16 w) = exec i (s.withFetchWord 16 w) ∧
    ChangesOnly [.pc, .mem, .halt] s (s.withFetchWord 16 w) ∧
    (s.pc.toNat + 1 < 4096 → (s.withFetchWord 16 w).pc = s.pc ∧ OtherBytesSame s.pc.toNat 2 s (s.withFetchWord 16 w))

/-! ### Control flow -/

/-- 1NNN sets PC to NNN and changes nothing else (R162). -/
def Obligations.JumpSetsPc : Prop :=
  ∀ (s : State) (nnn : Addr12),
    EncodedAs (0x1000 + nnn.toNat) (.jp nnn) ∧
    ∃ t, exec (.jp nnn) s = .next t ∧ t.pc.toNat = nnn.toNat ∧ ChangesOnly [.pc] s t

/-- BNNN sets PC to V0 + NNN, not masked to 12 bits (41_control_flow.md, D15; log entry 19). -/
def Obligations.JumpV0SetsPc : Prop :=
  ∀ (s : State) (nnn : Addr12), ∃ t, exec (.jpV0 nnn) s = .next t ∧ t.pc.toNat = (s.V 0x0).toNat + nnn.toNat ∧
    ChangesOnly [.pc] s t

/-- CALL with room pushes pc0 + 2 (modulo 2^16, D15), high byte at SP - 1 and low byte at SP, moves SP down by 2 and jumps; on a
full stack it takes StackOverflow (41_control_flow.md, 20_memory.md section 5, D9, D10, D12; log entries 6, 8, 17). -/
def Obligations.CallPushesAndJumps : Prop :=
  ∀ (s : State) (nnn : Addr12), s.sp.toNat ≤ 0x0EFF →
    (0x0EFF < s.sp.toNat + 2 * Params.stackDepth →
      ∃ t, exec (.call nnn) s = .next t ∧ t.pc.toNat = nnn.toNat ∧ t.sp.toNat + 2 = s.sp.toNat ∧
        (t.mem.byte (s.sp.toNat - 1)).toNat * 256 + (t.mem.byte s.sp.toNat).toNat = (s.pc.toNat + 2) % 65536 ∧
        OtherBytesSame (s.sp.toNat - 1) 2 s t ∧ ChangesOnly [.pc, .sp, .mem] s t) ∧
    (s.sp.toNat + 2 * Params.stackDepth ≤ 0x0EFF → TakesFault (.call nnn) s .stackOverflow none none)

/-- RET with an entry on the stack sets PC to the 16-bit word above SP, high byte first, moves SP up by 2 and leaves the bytes; on
the empty stack it takes StackUnderflow (41_control_flow.md, 20_memory.md section 5, D9, D10, D12, D31; log entries 8, 17, 29). -/
def Obligations.ReturnPopsPc : Prop :=
  ∀ s : State,
    (s.sp.toNat ≠ 0x0EFF → s.sp.toNat + 2 < 4096 →
      ∃ t, exec .ret s = .next t ∧
        t.pc.toNat = (s.mem.byte (s.sp.toNat + 1)).toNat * 256 + (s.mem.byte (s.sp.toNat + 2)).toNat ∧
        t.sp.toNat = s.sp.toNat + 2 ∧ ChangesOnly [.pc, .sp] s t) ∧
    (s.sp.toNat = 0x0EFF → TakesFault .ret s .stackUnderflow none none)

/-- A CALL and a later RET that finds SP and the pushed bytes as the CALL left them: RET resumes at the instruction after the
call, with SP back (41_control_flow.md; 20_memory.md section 5, D9; log entry 8). -/
def Obligations.CallThenReturn : Prop :=
  ∀ (s t u : State) (nnn : Addr12), s.sp.toNat ≤ 0x0EFF → 0x0EFF < s.sp.toNat + 2 * Params.stackDepth →
    exec (.call nnn) s = .next t → u.sp = t.sp →
    (∀ a, s.sp.toNat - 1 ≤ a → a ≤ s.sp.toNat → u.mem.byte a = t.mem.byte a) →
    ∃ w, exec .ret u = .next w ∧ w.pc = s.pc + 2 ∧ w.sp = s.sp

/-- Pushes and pops are last-in first-out, for every stack depth from 1 to 64 with room for two (20_memory.md section 5, D9,
D10). -/
def Obligations.PushPopLifo : Prop :=
  ∀ (depth : Nat) (a b : Word) (s : State), depth ≤ 64 → s.sp.toNat ≤ 0x0EFF → 0x0EFF < s.sp.toNat + 2 * (depth - 1) →
    ∃ s1 s2 s3 s4, s.push depth a = .ok s1 ∧ s1.push depth b = .ok s2 ∧ s2.pop = .ok (b, s3) ∧ s3.pop = .ok (a, s4) ∧
      s4.sp = s.sp

/-- 0NNN and the seven unknown ALU forms: their effect is to take their fault, kinds 1 and 3 (41_control_flow.md, 43_alu.md section
3, D12, D14; log entries 17, 18). -/
def Obligations.UnsupportedFormsFault : Prop :=
  ∀ (s : State) (nnn : Addr12) (x y : RegIdx),
    TakesFault (.sys nnn) s .unsupportedFeature none none ∧
    TakesFault (.aluUnknown8 x y) s .unknownAluSubOpcode none none ∧
    TakesFault (.aluUnknown9 x y) s .unknownAluSubOpcode none none ∧
    TakesFault (.aluUnknownA x y) s .unknownAluSubOpcode none none ∧
    TakesFault (.aluUnknownB x y) s .unknownAluSubOpcode none none ∧
    TakesFault (.aluUnknownC x y) s .unknownAluSubOpcode none none ∧
    TakesFault (.aluUnknownD x y) s .unknownAluSubOpcode none none ∧
    TakesFault (.aluUnknownF x y) s .unknownAluSubOpcode none none

/-! ### Skips -/

/-- 3XNN skips when V[x] = NN, 4XNN when V[x] ≠ NN; nothing but PC changes (R181, R182). -/
def Obligations.SkipsOnConstant : Prop :=
  ∀ (s : State) (x : RegIdx) (nn : Byte),
    EncodedAs (0x3000 + x.toNat * 256 + nn.toNat) (.seVxNn x nn) ∧ EncodedAs (0x4000 + x.toNat * 256 + nn.toNat) (.sneVxNn x nn) ∧
    (∃ t, exec (.seVxNn x nn) s = .next t ∧ ChangesOnly [.pc] s t ∧
      (s.V x = nn → PcForward 4 s t) ∧ (s.V x ≠ nn → PcForward 2 s t)) ∧
    (∃ t, exec (.sneVxNn x nn) s = .next t ∧ ChangesOnly [.pc] s t ∧
      (s.V x ≠ nn → PcForward 4 s t) ∧ (s.V x = nn → PcForward 2 s t))

/-- 5XY0 skips when V[x] = V[y], 9XY0 when V[x] ≠ V[y]; nothing but PC changes (42_skips.md; that only N = 0 is this instruction
rests on D2, log entry 15). -/
def Obligations.SkipsOnRegister : Prop :=
  ∀ (s : State) (x y : RegIdx),
    (∃ t, exec (.seVxVy x y) s = .next t ∧ ChangesOnly [.pc] s t ∧
      (s.V x = s.V y → PcForward 4 s t) ∧ (s.V x ≠ s.V y → PcForward 2 s t)) ∧
    (∃ t, exec (.sneVxVy x y) s = .next t ∧ ChangesOnly [.pc] s t ∧
      (s.V x ≠ s.V y → PcForward 4 s t) ∧ (s.V x = s.V y → PcForward 2 s t))

/-- EX9E skips when the key V[x] is held, EXA1 when it is not; a key value of 16 or more takes KeyIndex with that value
(42_skips.md, 46_timers_input.md section 1, D7, D12; log entry 13). -/
def Obligations.SkipsOnKey : Prop :=
  ∀ (s : State) (x : RegIdx),
    ((s.V x).toNat < 16 →
      (∃ t, exec (.skp x) s = .next t ∧ ChangesOnly [.pc] s t ∧
        (s.keyFlag (s.V x).toNat = true → PcForward 4 s t) ∧ (s.keyFlag (s.V x).toNat = false → PcForward 2 s t)) ∧
      (∃ t, exec (.sknp x) s = .next t ∧ ChangesOnly [.pc] s t ∧
        (s.keyFlag (s.V x).toNat = false → PcForward 4 s t) ∧ (s.keyFlag (s.V x).toNat = true → PcForward 2 s t))) ∧
    (16 ≤ (s.V x).toNat →
      TakesFault (.skp x) s .keyIndex none (some (s.V x)) ∧ TakesFault (.sknp x) s .keyIndex none (some (s.V x)))

/-! ### ALU -/

/-- 6XNN and 7XNN: V[x] becomes NN, or the sum modulo 256; no flag, no other register (R202, R203). -/
def Obligations.ImmediateLoadAndAdd : Prop :=
  ∀ (s : State) (x : RegIdx) (nn : Byte),
    EncodedAs (0x6000 + x.toNat * 256 + nn.toNat) (.ldVxNn x nn) ∧ EncodedAs (0x7000 + x.toNat * 256 + nn.toNat) (.addVxNn x nn) ∧
    (∃ t, exec (.ldVxNn x nn) s = .next t ∧ t.V x = nn ∧ OtherRegsSame x s t ∧ PcForward 2 s t ∧
      ChangesOnly [.v, .pc] s t) ∧
    (∃ t, exec (.addVxNn x nn) s = .next t ∧ (t.V x).toNat = ((s.V x).toNat + nn.toNat) % 256 ∧ OtherRegsSame x s t ∧
      PcForward 2 s t ∧ ChangesOnly [.v, .pc] s t)

/-- 8XY0 to 8XY3: V[x] becomes V[y], or the bitwise or, and, exclusive or, bit by bit; VF is untouched but as the destination
(R204, R205, R206, R207). -/
def Obligations.AssignAndBitwise : Prop :=
  ∀ (s : State) (x y : RegIdx),
    EncodedAs (0x8000 + x.toNat * 256 + y.toNat * 16) (.ldVxVy x y) ∧ EncodedAs (0x8001 + x.toNat * 256 + y.toNat * 16) (.or x y) ∧
    EncodedAs (0x8002 + x.toNat * 256 + y.toNat * 16) (.and x y) ∧ EncodedAs (0x8003 + x.toNat * 256 + y.toNat * 16) (.xor x y) ∧
    (∃ t, exec (.ldVxVy x y) s = .next t ∧ t.V x = s.V y ∧ OtherRegsSame x s t ∧ PcForward 2 s t ∧
      ChangesOnly [.v, .pc] s t) ∧
    (∃ t, exec (.or x y) s = .next t ∧ (∀ k, (t.V x).getLsbD k = ((s.V x).getLsbD k || (s.V y).getLsbD k)) ∧
      OtherRegsSame x s t ∧ PcForward 2 s t ∧ ChangesOnly [.v, .pc] s t) ∧
    (∃ t, exec (.and x y) s = .next t ∧ (∀ k, (t.V x).getLsbD k = ((s.V x).getLsbD k && (s.V y).getLsbD k)) ∧
      OtherRegsSame x s t ∧ PcForward 2 s t ∧ ChangesOnly [.v, .pc] s t) ∧
    (∃ t, exec (.xor x y) s = .next t ∧ (∀ k, (t.V x).getLsbD k = Bool.xor ((s.V x).getLsbD k) ((s.V y).getLsbD k)) ∧
      OtherRegsSame x s t ∧ PcForward 2 s t ∧ ChangesOnly [.v, .pc] s t)

/-- 8XY4: V[x] is the sum modulo 256 and VF is 1 exactly when the sum exceeds 255, from the values before; with x = F the flag
stays in VF (43_alu.md section 3, D4; log entry 10). -/
def Obligations.AddWithCarry : Prop :=
  ∀ (s : State) (x y : RegIdx), ∃ t, exec (.addVxVy x y) s = .next t ∧
    (x ≠ 0xF → (t.V x).toNat = ((s.V x).toNat + (s.V y).toNat) % 256) ∧
    (t.V 0xF).toNat = (if (s.V x).toNat + (s.V y).toNat > 255 then 1 else 0) ∧
    OtherRegsSameButF x s t ∧ PcForward 2 s t ∧ ChangesOnly [.v, .pc] s t

/-- 8XY5 and 8XY7: V[x] is the difference modulo 256 (VX - VY, VY - VX) and VF is 1 exactly when there is no borrow, from the
values before; with x = F the flag stays in VF (43_alu.md section 3, D4; log entry 10). -/
def Obligations.SubtractWithoutBorrow : Prop :=
  ∀ (s : State) (x y : RegIdx),
    (∃ t, exec (.sub x y) s = .next t ∧
      (x ≠ 0xF → (t.V x).toNat = ((s.V x).toNat + 256 - (s.V y).toNat) % 256) ∧
      (t.V 0xF).toNat = (if (s.V x).toNat ≥ (s.V y).toNat then 1 else 0) ∧
      OtherRegsSameButF x s t ∧ PcForward 2 s t ∧ ChangesOnly [.v, .pc] s t) ∧
    (∃ t, exec (.subn x y) s = .next t ∧
      (x ≠ 0xF → (t.V x).toNat = ((s.V y).toNat + 256 - (s.V x).toNat) % 256) ∧
      (t.V 0xF).toNat = (if (s.V y).toNat ≥ (s.V x).toNat then 1 else 0) ∧
      OtherRegsSameButF x s t ∧ PcForward 2 s t ∧ ChangesOnly [.v, .pc] s t)

/-- 8XY6 and 8XYE: V[x] is V[x] halved or doubled modulo 256, VF the bit shifted out; Vy has no part in it (43_alu.md section 3,
D3, D4; log entries 9, 10). -/
def Obligations.ShiftsOfVx : Prop :=
  ∀ (s : State) (x y : RegIdx),
    (∃ t, exec (.shr x y) s = .next t ∧ (x ≠ 0xF → (t.V x).toNat = (s.V x).toNat / 2) ∧
      (t.V 0xF).toNat = (s.V x).toNat % 2 ∧ OtherRegsSameButF x s t ∧ PcForward 2 s t ∧ ChangesOnly [.v, .pc] s t) ∧
    (∃ t, exec (.shl x y) s = .next t ∧ (x ≠ 0xF → (t.V x).toNat = (s.V x).toNat * 2 % 256) ∧
      (t.V 0xF).toNat = (s.V x).toNat / 128 ∧ OtherRegsSameButF x s t ∧ PcForward 2 s t ∧ ChangesOnly [.v, .pc] s t)

/-- CXNN: V[x] is the draw and NN, bit by bit, for whatever draw comes; the next draw is a new one (43_alu.md section 4, D21; the
counter of draws is the model's choice, log entry 4). -/
def Obligations.RandomMasksTheDraw : Prop :=
  ∀ (s : State) (x : RegIdx) (nn : Byte), ∃ t, exec (.rnd x nn) s = .next t ∧
    (∀ k, (t.V x).getLsbD k = ((Config.draw s.draws).getLsbD k && nn.getLsbD k)) ∧ t.draws = s.draws + 1 ∧
    OtherRegsSame x s t ∧ PcForward 2 s t ∧ ChangesOnly [.v, .pc, .draws] s t

/-! ### Address register and memory -/

/-- ANNN and FX29: I becomes NNN, or V[x] × 5 with V[x] not masked; no flag (R240, R242). -/
def Obligations.IndexLoads : Prop :=
  ∀ (s : State) (nnn : Addr12) (x : RegIdx),
    EncodedAs (0xA000 + nnn.toNat) (.ldI nnn) ∧ EncodedAs (0xF029 + x.toNat * 256) (.ldFVx x) ∧
    (∃ t, exec (.ldI nnn) s = .next t ∧ t.iReg.toNat = nnn.toNat ∧ PcForward 2 s t ∧ ChangesOnly [.iReg, .pc] s t) ∧
    (∃ t, exec (.ldFVx x) s = .next t ∧ t.iReg.toNat = (s.V x).toNat * 5 ∧ PcForward 2 s t ∧ ChangesOnly [.iReg, .pc] s t)

/-- FX1E: I becomes I + V[x] modulo 2^16; VF is not written (44_index_memory.md, D5; log entry 11). -/
def Obligations.IndexAdd : Prop :=
  ∀ (s : State) (x : RegIdx), ∃ t, exec (.addIVx x) s = .next t ∧
    t.iReg.toNat = (s.iReg.toNat + (s.V x).toNat) % 65536 ∧ PcForward 2 s t ∧ ChangesOnly [.iReg, .pc] s t

/-- FX33: the hundreds, tens and ones of V[x] go to I, I + 1, I + 2 when these exist, and I stays; else the fault of kind 4 at the
lowest address out of range, with no byte written (44_index_memory.md, D6, D11, D12; log entries 12, 16, 17). -/
def Obligations.BcdStoresDigits : Prop :=
  ∀ (s : State) (x : RegIdx),
    (s.iReg.toNat + 2 < 4096 → ∃ t, exec (.ldBVx x) s = .next t ∧
      (t.mem.byte s.iReg.toNat).toNat = (s.V x).toNat / 100 ∧
      (t.mem.byte (s.iReg.toNat + 1)).toNat = (s.V x).toNat / 10 % 10 ∧
      (t.mem.byte (s.iReg.toNat + 2)).toNat = (s.V x).toNat % 10 ∧
      OtherBytesSame s.iReg.toNat 3 s t ∧ PcForward 2 s t ∧ ChangesOnly [.mem, .pc] s t) ∧
    (4096 ≤ s.iReg.toNat + 2 → TakesFault (.ldBVx x) s .memoryAddress (some (max s.iReg.toNat 4096)) none)

/-- FX55: V0 to Vx go to memory from I, x the nibble, when all the addresses exist, and I stays; else the fault of kind 4 at the
lowest address out of range, with no byte written (44_index_memory.md, D6, D11, D12; log entries 12, 16, 17). -/
def Obligations.DumpStoresRegisters : Prop :=
  ∀ (s : State) (x : RegIdx),
    (s.iReg.toNat + x.toNat < 4096 → ∃ t, exec (.ldMemIVx x) s = .next t ∧
      (∀ r : RegIdx, r.toNat ≤ x.toNat → t.mem.byte (s.iReg.toNat + r.toNat) = s.V r) ∧
      OtherBytesSame s.iReg.toNat (x.toNat + 1) s t ∧ PcForward 2 s t ∧ ChangesOnly [.mem, .pc] s t) ∧
    (4096 ≤ s.iReg.toNat + x.toNat → TakesFault (.ldMemIVx x) s .memoryAddress (some (max s.iReg.toNat 4096)) none)

/-- FX65: V0 to Vx come from memory from I, x the nibble, when all the addresses exist, and I stays; else the fault of kind 4 at the
lowest address out of range, with no register written (44_index_memory.md, D6, D11, D12; log entries 12, 16, 17). -/
def Obligations.LoadReadsRegisters : Prop :=
  ∀ (s : State) (x : RegIdx),
    (s.iReg.toNat + x.toNat < 4096 → ∃ t, exec (.ldVxMemI x) s = .next t ∧
      (∀ r : RegIdx, r.toNat ≤ x.toNat → t.V r = s.mem.byte (s.iReg.toNat + r.toNat)) ∧
      (∀ r : RegIdx, x.toNat < r.toNat → t.V r = s.V r) ∧ PcForward 2 s t ∧ ChangesOnly [.v, .pc] s t) ∧
    (4096 ≤ s.iReg.toNat + x.toNat → TakesFault (.ldVxMemI x) s .memoryAddress (some (max s.iReg.toNat 4096)) none)

/-- Dumping V0 to Vx and loading them again from the same I, with whatever registers in between, gives the values back
(44_index_memory.md; 95_test_vectors.md S11; D6). -/
def Obligations.DumpThenLoadRestores : Prop :=
  ∀ (s t u : State) (x : RegIdx), s.iReg.toNat + x.toNat < 4096 → exec (.ldMemIVx x) s = .next t →
    u.iReg = t.iReg → (∀ a, u.mem.byte a = t.mem.byte a) →
    ∃ w, exec (.ldVxMemI x) u = .next w ∧ ∀ r : RegIdx, r.toNat ≤ x.toNat → w.V r = s.V r

/-- The fetch sees the stores of earlier steps: after FX55 stored V0 and V1 at I, a fetch at I gives the opcode V0, V1
(20_memory.md section 6). -/
def Obligations.StoreIsFetched : Prop :=
  ∀ (s t : State) (x : RegIdx), 1 ≤ x.toNat → s.iReg.toNat + x.toNat < 4096 → exec (.ldMemIVx x) s = .next t →
    ∃ op, (t.setPc s.iReg).fetchOpcode = .ok op ∧ op.toNat = (s.V 0x0).toNat * 256 + (s.V 0x1).toNat

/-! ### Display -/

/-- 00E0: every pixel Off, nothing else (R274). -/
def Obligations.ClearTurnsPixelsOff : Prop :=
  EncodedAs 0x00E0 .cls ∧
  ∀ s : State, ∃ t, exec .cls s = .next t ∧ (∀ px py, t.disp.pixel px py = false) ∧ PcForward 2 s t ∧
    ChangesOnly [.disp, .pc] s t

/-- DXYN: exactly the pixels under a set bit of the n bytes at I change over, bit 7 leftmost, coordinates wrapped modulo 64 and 32
from V[x] and V[y]; VF is 1 exactly when one of them was On, else 0; when the bytes do not all exist, the fault of kind 4
(45_display.md sections 1, 2; n = 0 as the spec derives it; the coordinates are values, not nibbles, by conflict C2, log entry 31; they
are read before VF is written by D4, log entry 10; D11, D12; log entries 16, 17). -/
def Obligations.DrawXorsTheSprite : Prop :=
  ∀ (s : State) (x y : RegIdx) (n : Nibble),
    (n.toNat = 0 ∨ s.iReg.toNat + n.toNat ≤ 4096 → ∃ t, exec (.drw x y n) s = .next t ∧
      (∀ px py, px < 64 → py < 32 → (t.disp.pixel px py ≠ s.disp.pixel px py ↔
        ∃ r c, r < n.toNat ∧ c < 8 ∧ (s.mem.byte (s.iReg.toNat + r)).getLsbD (7 - c) = true ∧
          px = ((s.V x).toNat + c) % 64 ∧ py = ((s.V y).toNat + r) % 32)) ∧
      (t.V 0xF = 0 ∨ t.V 0xF = 1) ∧
      (t.V 0xF = 1 ↔ ∃ px py, s.disp.pixel px py = true ∧ t.disp.pixel px py = false) ∧
      OtherRegsSame 0xF s t ∧ PcForward 2 s t ∧ ChangesOnly [.v, .disp, .pc] s t) ∧
    (n.toNat ≠ 0 → 4096 < s.iReg.toNat + n.toNat →
      TakesFault (.drw x y n) s .memoryAddress (some (max s.iReg.toNat 4096)) none)

/-- Drawing the same sprite twice at the same coordinates gives the display back; and if the sprite has a set bit and all the
pixels it covers were Off, the second draw sets VF to 1 (45_display.md section 2; 90_conflicts.md C9). -/
def Obligations.DrawTwiceRestores : Prop :=
  ∀ (s t u : State) (x y : RegIdx) (n : Nibble), n.toNat = 0 ∨ s.iReg.toNat + n.toNat ≤ 4096 →
    exec (.drw x y n) s = .next t → t.V x = s.V x → t.V y = s.V y → exec (.drw x y n) t = .next u →
    (∀ px py, u.disp.pixel px py = s.disp.pixel px py) ∧
    (t.V 0xF = 0 → (∃ r c, r < n.toNat ∧ c < 8 ∧ (s.mem.byte (s.iReg.toNat + r)).getLsbD (7 - c) = true) → u.V 0xF = 1)

/-- The read views, in every state, the halted ones too: read_display() returns the grid itself; the flattened view of 2048 bytes,
byte y*64 + x being 1 where the pixel is On and else 0; or the string of the 32 rows from the top with a line break between them, each
row its 64 pixels from the left, each spelled by the two characters of RENDER_ON or RENDER_OFF, whatever these are. No view changes the
state (45_display.md section 3, D22; that no line break ends the string is the model's choice, DESIGN CHOICE, log entry 21). -/
def Obligations.ReadViews : Prop :=
  ∀ s : State, (∀ view, (hostCall (.readDisplay view) s).1 = s) ∧
    (hostCall (.readDisplay .matrix) s).2 = .matrix s.disp ∧
    (∀ x y (hx : x < 64) (hy : y < 32), s.disp[y][x] = s.disp.pixel x y) ∧
    (hostCall (.readDisplay .flat) s).2 = .flat s.disp.flat ∧ s.disp.flat.length = 2048 ∧
    (∀ x y, x < 64 → y < 32 → s.disp.flat[y * 64 + x]? = some (if s.disp.pixel x y then 1 else 0)) ∧
    (hostCall (.readDisplay .text) s).2 = .text (String.intercalate Config.lineBreak
      ((List.range 32).map fun y => String.join ((List.range 64).map fun x =>
        if s.disp.pixel x y then String.ofList [Config.renderOnChars.1, Config.renderOnChars.2]
        else String.ofList [Config.renderOffChars.1, Config.renderOffChars.2])))

/-! ### Timers and keys -/

/-- FX07, FX15, FX18: V[x] becomes DT, DT becomes V[x], ST becomes V[x], and nothing else changes (R302, R305, R306). -/
def Obligations.TimerTransfers : Prop :=
  ∀ (s : State) (x : RegIdx),
    EncodedAs (0xF007 + x.toNat * 256) (.ldVxDt x) ∧ EncodedAs (0xF015 + x.toNat * 256) (.ldDtVx x) ∧
    EncodedAs (0xF018 + x.toNat * 256) (.ldStVx x) ∧
    (∃ t, exec (.ldVxDt x) s = .next t ∧ t.V x = s.dt ∧ OtherRegsSame x s t ∧ PcForward 2 s t ∧ ChangesOnly [.v, .pc] s t) ∧
    (∃ t, exec (.ldDtVx x) s = .next t ∧ t.dt = s.V x ∧ PcForward 2 s t ∧ ChangesOnly [.dt, .pc] s t) ∧
    (∃ t, exec (.ldStVx x) s = .next t ∧ t.st = s.V x ∧ PcForward 2 s t ∧ ChangesOnly [.st, .pc] s t)

/-- FX0A: with no key held the state is left exactly as it was; with a key held V[x] becomes the lowest held key
(46_timers_input.md, D8, D15; log entries 14, 19). -/
def Obligations.WaitForKey : Prop :=
  ∀ (s : State) (x : RegIdx),
    ((∀ k, k < 16 → s.keyFlag k = false) → exec (.ldVxK x) s = .next s) ∧
    (∀ k, k < 16 → s.keyFlag k = true → (∀ j, j < k → s.keyFlag j = false) →
      ∃ t, exec (.ldVxK x) s = .next t ∧ (t.V x).toNat = k ∧ OtherRegsSame x s t ∧ PcForward 2 s t ∧
        ChangesOnly [.v, .pc] s t)

/-- Ticks: the host's tick_timers() is one tick and returns no value; after n of them each timer is down by n but not below 0, nothing
else has changed, and sound_active() returns true exactly while ST has more than n to go and changes nothing; halted or not
(60_exceptions.md sections 5 and 8, D23; log entry 22). -/
def Obligations.TicksCountDown : Prop :=
  ∀ (s : State) (n : Nat), hostCall .tickTimers s = (tickTimers s, .nothing) ∧
    ((tickTimers^[n]) s).dt.toNat = s.dt.toNat - n ∧ ((tickTimers^[n]) s).st.toNat = s.st.toNat - n ∧
    ChangesOnly [.dt, .st] s ((tickTimers^[n]) s) ∧
    (hostCall .soundActive ((tickTimers^[n]) s) = ((tickTimers^[n]) s, .bool (decide (n < s.st.toNat))))

/-- set_key_state: an index below 16 sets that flag alone; any other index is refused with no change (60_exceptions.md section 6,
D20; log entry 20). -/
def Obligations.SetKeyState : Prop :=
  ∀ (s : State) (index : Nat) (held : Bool),
    (index < 16 → (hostCall (.setKeyState index held) s).2 = .ok ∧
      (∀ k, (hostCall (.setKeyState index held) s).1.keyFlag k = if k = index then held else s.keyFlag k) ∧
      ChangesOnly [.key] s (hostCall (.setKeyState index held) s).1) ∧
    (16 ≤ index → hostCall (.setKeyState index held) s = (s, .hostErr .keyIndexOutOfRange))

/-! ### Reset and load -/

/-- load_program: an image of up to 0xE00 bytes goes to 0x200 onward, one zero byte after an odd-length one, and nothing else
changes; a longer one is refused with no change (70_reset_and_hazards.md section 2, D19; log entry 20). -/
def Obligations.LoadProgram : Prop :=
  ∀ (s : State) (b : List Byte),
    (b.length ≤ 0xE00 → (hostCall (.loadProgram b) s).2 = .ok ∧
      (∀ k, k < b.length → (hostCall (.loadProgram b) s).1.mem.byte (0x200 + k) = b.getD k 0) ∧
      (b.length % 2 = 1 → (hostCall (.loadProgram b) s).1.mem.byte (0x200 + b.length) = 0) ∧
      OtherBytesSame 0x200 (b.length + b.length % 2) s (hostCall (.loadProgram b) s).1 ∧
      ChangesOnly [.mem] s (hostCall (.loadProgram b) s).1) ∧
    (0xE00 < b.length → hostCall (.loadProgram b) s = (s, .hostErr .programTooLarge))

/-- reset(): PC 0x200 and SP 0x0EFF; V, I, DT, ST zero, keys released, pixels Off, HALT none, memory the font and else zero; the
counter of draws goes on (70_reset_and_hazards.md section 1, D9, D13, D16; FONT is the parameter of D17; log entries 4, 5, 7). -/
def Obligations.ResetState : Prop :=
  ∀ s : State, ∃ t, hostCall .reset s = (t, .nothing) ∧ t.pc = 0x0200 ∧ t.sp = 0x0EFF ∧ (∀ r, t.V r = 0) ∧ t.iReg = 0 ∧
    t.dt = 0 ∧ t.st = 0 ∧ (∀ k, t.keyFlag k = false) ∧ (∀ x y, t.disp.pixel x y = false) ∧ t.halt = none ∧
    (∀ a, a < 80 → t.mem.byte a = Params.font.getD a 0) ∧ (∀ a, 80 ≤ a → t.mem.byte a = 0) ∧ t.draws = s.draws
end

