-- ==== Sys2Proof/Laws/Display.lean ====
section
/-! SUPPORT. The display laws: a pixel read after a pixel write, and toggling. -/

namespace Sys2Proof.Machine

/-- Coordinates wrap modulo 64 and 32 (R270). -/
theorem Display.pixel_wrap (d : Display) (x y : Nat) : d.pixel (x % 64) (y % 32) = d.pixel x y := by
  simp [Display.pixel]

/-- A pixel read after a pixel write. -/
theorem Display.pixel_setPixel (d : Display) (x y : Nat) (p : Pixel) (x' y' : Nat) :
    (d.setPixel x y p).pixel x' y' = if x' % 64 = x % 64 ∧ y' % 32 = y % 32 then p else d.pixel x' y' := by
  simp only [Display.pixel, Display.setPixel, Vector.getElem_set]
  by_cases hy : y % 32 = y' % 32
  · by_cases hx : x % 64 = x' % 64
    · simp [hy, hx]
    · simp [hy, hx, Ne.symm hx]
  · simp [hy, Ne.symm hy]

/-- A pixel read after a toggle (R272). -/
theorem Display.pixel_togglePixel (d : Display) (x y x' y' : Nat) :
    (d.togglePixel x y).1.pixel x' y' = if x' % 64 = x % 64 ∧ y' % 32 = y % 32 then !d.pixel x' y' else d.pixel x' y' := by
  simp only [Display.togglePixel, Display.pixel_setPixel]
  by_cases h : x' % 64 = x % 64 ∧ y' % 32 = y % 32
  · have : d.pixel x y = d.pixel x' y' := by
      rw [← Display.pixel_wrap d x y, ← Display.pixel_wrap d x' y', h.1, h.2]
    simp [h, this]
  · simp [h]

/-- A toggle reports the pixel before the flip (R272). -/
@[simp] theorem Display.togglePixel_was (d : Display) (x y : Nat) : (d.togglePixel x y).2 = d.pixel x y := rfl

/-- A cleared display is Off everywhere (R274). -/
@[simp] theorem Display.pixel_clear (x y : Nat) : Display.clear.pixel x y = false := by
  simp [Display.pixel, Display.clear]

/-- Two displays with the same pixels are the same display. -/
theorem Display.ext_pixel (d e : Display) (h : ∀ x y, d.pixel x y = e.pixel x y) : d = e := by
  apply Vector.ext
  intro y hy
  apply Vector.ext
  intro x hx
  have := h x y
  simpa [Display.pixel, Nat.mod_eq_of_lt hy, Nat.mod_eq_of_lt hx] using this

/-- A sprite without rows changes nothing and hits nothing (R275). -/
@[simp] theorem Display.drawSprite_nil (d : Display) (x y : Nat) : d.drawSprite x y [] = (d, false) := rfl

/-- A function over the entries of a vector, in order, is one over their indexes: the read views walk rows and columns so. -/
theorem Display.map_toList {α β : Type} {n : Nat} (v : Vector α n) (f : α → β) (g : Nat → β)
    (h : ∀ i (hi : i < n), f v[i] = g i) : v.toList.map f = (List.range n).map g := by
  apply List.ext_getElem
  · simp
  · intro i hi _
    have hn : i < n := by simpa using hi
    simp [h i hn]

/-- The entry at row y, column x of the grid is the pixel there (R276). -/
theorem Display.getElem_getElem (d : Display) (x y : Nat) (hx : x < 64) (hy : y < 32) : d[y][x] = d.pixel x y := by
  simp [Display.pixel, Nat.mod_eq_of_lt hx, Nat.mod_eq_of_lt hy]

/-- The flattened view goes through the pixels row by row, column by column (R276). -/
theorem Display.flat_eq_pixels (d : Display) :
    d.flat = (List.range 32).flatMap fun y => (List.range 64).map fun x => if d.pixel x y then 1 else 0 := by
  unfold Display.flat
  refine congrArg List.flatten (Display.map_toList _ _ _ fun y hy => Display.map_toList _ _ _ fun x hx => ?_)
  rw [Display.getElem_getElem d x y hx hy]

end Sys2Proof.Machine
end

