-- ==== Sys2Proof/Laws/Memory.lean ====
section
/-! SUPPORT. The memory laws: a read after a write, for every list of cells, and that every write keeps the canonical form. -/

namespace Sys2Proof.Machine

/-! ### Read after write -/

theorem Memory.byte_filter (m : Memory) (a b : Nat) :
    Memory.byte (m.filter (fun c => c.1 != a)) b = if b = a then resetByte b else m.byte b := by
  induction m with
  | nil => simp [Memory.byte]
  | cons c m ih =>
    obtain ⟨k, v⟩ := c
    by_cases hk : k = a
    · subst hk
      simp only [List.filter_cons, bne_self_eq_false, Bool.false_eq_true, if_false, ih, Memory.byte]
      by_cases hb : b = k
      · simp [hb]
      · simp [hb, Ne.symm hb]
    · have : (k != a) = true := by simpa using hk
      simp only [List.filter_cons, this, if_true, Memory.byte, ih]
      by_cases hb : k = b
      · subst hb; simp [hk]
      · simp [hb]

theorem Memory.byte_insertCell (m : Memory) (a b : Nat) (v : Byte) (h : ∀ c ∈ m, c.1 ≠ a) :
    Memory.byte (Memory.insertCell a v m) b = if b = a then v else m.byte b := by
  induction m with
  | nil => simp [Memory.insertCell, Memory.byte, eq_comm]
  | cons c m ih =>
    obtain ⟨k, w⟩ := c
    have hk : k ≠ a := h (k, w) (by simp)
    have hm : ∀ c ∈ m, c.1 ≠ a := fun c hc => h c (by simp [hc])
    by_cases hlt : a < k
    · by_cases hb : b = a
      · simp [Memory.insertCell, Memory.byte, hlt, hb]
      · simp [Memory.insertCell, Memory.byte, hlt, hb, Ne.symm hb]
    · by_cases hb : k = b
      · subst hb; simp [Memory.insertCell, Memory.byte, hlt, hk]
      · simp [Memory.insertCell, Memory.byte, hlt, ih hm, hb]

/-- A byte read after a byte write, for every list of cells, canonical or not. -/
theorem Memory.byte_put (m : Memory) (a b : Nat) (v : Byte) : (m.put a v).byte b = if b = a then v else m.byte b := by
  unfold Memory.put
  split
  · rename_i hv
    rw [Memory.byte_filter]
    by_cases hb : b = a <;> simp [hb, hv]
  · rw [Memory.byte_insertCell _ _ _ _ (by simp), Memory.byte_filter]
    by_cases hb : b = a <;> simp [hb]

@[simp] theorem Memory.byte_put_self (m : Memory) (a : Nat) (v : Byte) : (m.put a v).byte a = v := by
  simp [Memory.byte_put]

/-- A byte read after writing bytes at ascending addresses. -/
theorem Memory.byte_putBytes (bs : List Byte) (m : Memory) (a b : Nat) :
    (m.putBytes a bs).byte b = if a ≤ b ∧ b < a + bs.length then bs.getD (b - a) 0 else m.byte b := by
  induction bs generalizing m a with
  | nil => simp [Memory.putBytes]
  | cons v bs ih =>
    simp only [Memory.putBytes, ih, Memory.byte_put, List.length_cons]
    by_cases h1 : b = a
    · subst h1; simp
    · by_cases h2 : a + 1 ≤ b ∧ b < a + 1 + bs.length
      · have h3 : a ≤ b ∧ b < a + (bs.length + 1) := by omega
        have h4 : b - a = (b - (a + 1)) + 1 := by omega
        rw [if_pos h2, if_pos h3, h4]
        simp
      · have h3 : ¬ (a ≤ b ∧ b < a + (bs.length + 1)) := by omega
        rw [if_neg h2, if_neg h3, if_neg h1]

/-! ### The canonical form -/

theorem Memory.wf_cons (a : Nat) (b : Byte) (m : Memory) :
    Memory.wf ((a, b) :: m) = true ↔
      a < Config.memSize ∧ b ≠ resetByte a ∧ (∀ c ∈ m, a < c.1) ∧ m.wf = true := by
  simp [Memory.wf, and_assoc, List.all_eq_true]

theorem Memory.wf_filter (m : Memory) (p : Host.Cell → Bool) (h : m.wf = true) : Memory.wf (m.filter p) = true := by
  induction m with
  | nil => rfl
  | cons c m ih =>
    obtain ⟨k, v⟩ := c
    obtain ⟨h1, h2, h3, h4⟩ := (Memory.wf_cons k v m).1 h
    by_cases hp : p (k, v) = true
    · rw [List.filter_cons_of_pos hp]
      exact (Memory.wf_cons _ _ _).2 ⟨h1, h2, fun c hc => h3 c (List.mem_of_mem_filter hc), ih h4⟩
    · rw [List.filter_cons_of_neg hp]
      exact ih h4

theorem Memory.mem_insertCell (m : Memory) (a : Nat) (v : Byte) (c : Host.Cell) :
    c ∈ Memory.insertCell a v m ↔ c = (a, v) ∨ c ∈ m := by
  induction m with
  | nil => simp [Memory.insertCell]
  | cons d m ih =>
    obtain ⟨k, w⟩ := d
    by_cases h : a < k
    · simp [Memory.insertCell, h]
    · simp only [Memory.insertCell, h, if_false, List.mem_cons, ih]
      tauto

theorem Memory.wf_insertCell (m : Memory) (a : Nat) (v : Byte) (h : m.wf = true) (ha : a < Config.memSize)
    (hv : v ≠ resetByte a) (hn : ∀ c ∈ m, c.1 ≠ a) : Memory.wf (Memory.insertCell a v m) = true := by
  induction m with
  | nil => simp [Memory.insertCell, Memory.wf, ha, hv]
  | cons c m ih =>
    obtain ⟨k, w⟩ := c
    obtain ⟨h1, h2, h3, h4⟩ := (Memory.wf_cons k w m).1 h
    have hk : k ≠ a := hn (k, w) (by simp)
    by_cases hlt : a < k
    · simp only [Memory.insertCell, hlt, if_true]
      refine (Memory.wf_cons _ _ _).2 ⟨ha, hv, fun c hc => ?_, h⟩
      rcases List.mem_cons.1 hc with rfl | hc
      · exact hlt
      · exact lt_trans hlt (h3 c hc)
    · simp only [Memory.insertCell, hlt, if_false]
      refine (Memory.wf_cons _ _ _).2 ⟨h1, h2, fun c hc => ?_, ih h4 (fun c hc => hn c (by simp [hc]))⟩
      rcases (Memory.mem_insertCell _ _ _ _).1 hc with rfl | hc
      · show k < a
        omega
      · exact h3 c hc

/-- A byte write inside the address space keeps the canonical form. -/
theorem Memory.wf_put (m : Memory) (a : Nat) (v : Byte) (h : m.wf = true) (ha : a < Config.memSize) :
    (m.put a v).wf = true := by
  unfold Memory.put
  split
  · exact Memory.wf_filter _ _ h
  · rename_i hv
    exact Memory.wf_insertCell _ _ _ (Memory.wf_filter _ _ h) ha hv (by simp)

/-- Writing bytes inside the address space keeps the canonical form. -/
theorem Memory.wf_putBytes (bs : List Byte) (m : Memory) (a : Nat) (h : m.wf = true)
    (ha : a + bs.length ≤ Config.memSize) : (m.putBytes a bs).wf = true := by
  induction bs generalizing m a with
  | nil => exact h
  | cons v bs ih =>
    simp only [List.length_cons] at ha
    exact ih _ _ (Memory.wf_put _ _ _ h (by omega)) (by omega)

/-- Reset memory lists nothing and is canonical. -/
theorem Memory.wf_nil : Memory.wf [] = true := rfl

/-- Past the font the reset contents are zero. -/
theorem resetByte_past_font (a : Nat) (h : 80 ≤ a) : resetByte a = 0 := by
  have : Params.font.length ≤ a := by
    have : Params.font.length = 80 := by decide
    omega
  exact List.getD_eq_default _ _ this

end Sys2Proof.Machine
end

