-- ==== Sys2Proof/Laws/State.lean ====
section
/-! SUPPORT. What each update of the state does to each field: one lemma per field per update, each true by rfl. -/

namespace Sys2Proof.Machine

variable (s : State)

/-! `setV` writes `v` alone. -/
@[simp] theorem State.setV_v (x : RegIdx) (b : Byte) : (s.setV x b).v = s.v.set x.toNat b x.isLt := rfl
@[simp] theorem State.setV_iReg (x : RegIdx) (b : Byte) : (s.setV x b).iReg = s.iReg := rfl
@[simp] theorem State.setV_pc (x : RegIdx) (b : Byte) : (s.setV x b).pc = s.pc := rfl
@[simp] theorem State.setV_sp (x : RegIdx) (b : Byte) : (s.setV x b).sp = s.sp := rfl
@[simp] theorem State.setV_dt (x : RegIdx) (b : Byte) : (s.setV x b).dt = s.dt := rfl
@[simp] theorem State.setV_st (x : RegIdx) (b : Byte) : (s.setV x b).st = s.st := rfl
@[simp] theorem State.setV_key (x : RegIdx) (b : Byte) : (s.setV x b).key = s.key := rfl
@[simp] theorem State.setV_disp (x : RegIdx) (b : Byte) : (s.setV x b).disp = s.disp := rfl
@[simp] theorem State.setV_mem (x : RegIdx) (b : Byte) : (s.setV x b).mem = s.mem := rfl
@[simp] theorem State.setV_halt (x : RegIdx) (b : Byte) : (s.setV x b).halt = s.halt := rfl
@[simp] theorem State.setV_draws (x : RegIdx) (b : Byte) : (s.setV x b).draws = s.draws := rfl
@[simp] theorem State.keyFlag_setV (x : RegIdx) (b : Byte) (k : Nat) : (s.setV x b).keyFlag k = s.keyFlag k := rfl
@[simp] theorem State.firstHeld_setV (x : RegIdx) (b : Byte) : (s.setV x b).firstHeld = s.firstHeld := rfl

/-! `setI` writes `iReg` alone. -/
@[simp] theorem State.setI_v (w : Word) : (s.setI w).v = s.v := rfl
@[simp] theorem State.setI_iReg (w : Word) : (s.setI w).iReg = w := rfl
@[simp] theorem State.setI_pc (w : Word) : (s.setI w).pc = s.pc := rfl
@[simp] theorem State.setI_sp (w : Word) : (s.setI w).sp = s.sp := rfl
@[simp] theorem State.setI_dt (w : Word) : (s.setI w).dt = s.dt := rfl
@[simp] theorem State.setI_st (w : Word) : (s.setI w).st = s.st := rfl
@[simp] theorem State.setI_key (w : Word) : (s.setI w).key = s.key := rfl
@[simp] theorem State.setI_disp (w : Word) : (s.setI w).disp = s.disp := rfl
@[simp] theorem State.setI_mem (w : Word) : (s.setI w).mem = s.mem := rfl
@[simp] theorem State.setI_halt (w : Word) : (s.setI w).halt = s.halt := rfl
@[simp] theorem State.setI_draws (w : Word) : (s.setI w).draws = s.draws := rfl
@[simp] theorem State.V_setI (w : Word) (r : RegIdx) : (s.setI w).V r = s.V r := rfl
@[simp] theorem State.keyFlag_setI (w : Word) (k : Nat) : (s.setI w).keyFlag k = s.keyFlag k := rfl
@[simp] theorem State.firstHeld_setI (w : Word) : (s.setI w).firstHeld = s.firstHeld := rfl

/-! `setPc` writes `pc` alone. -/
@[simp] theorem State.setPc_v (w : Word) : (s.setPc w).v = s.v := rfl
@[simp] theorem State.setPc_iReg (w : Word) : (s.setPc w).iReg = s.iReg := rfl
@[simp] theorem State.setPc_pc (w : Word) : (s.setPc w).pc = w := rfl
@[simp] theorem State.setPc_sp (w : Word) : (s.setPc w).sp = s.sp := rfl
@[simp] theorem State.setPc_dt (w : Word) : (s.setPc w).dt = s.dt := rfl
@[simp] theorem State.setPc_st (w : Word) : (s.setPc w).st = s.st := rfl
@[simp] theorem State.setPc_key (w : Word) : (s.setPc w).key = s.key := rfl
@[simp] theorem State.setPc_disp (w : Word) : (s.setPc w).disp = s.disp := rfl
@[simp] theorem State.setPc_mem (w : Word) : (s.setPc w).mem = s.mem := rfl
@[simp] theorem State.setPc_halt (w : Word) : (s.setPc w).halt = s.halt := rfl
@[simp] theorem State.setPc_draws (w : Word) : (s.setPc w).draws = s.draws := rfl
@[simp] theorem State.V_setPc (w : Word) (r : RegIdx) : (s.setPc w).V r = s.V r := rfl
@[simp] theorem State.keyFlag_setPc (w : Word) (k : Nat) : (s.setPc w).keyFlag k = s.keyFlag k := rfl
@[simp] theorem State.firstHeld_setPc (w : Word) : (s.setPc w).firstHeld = s.firstHeld := rfl

/-! `setSp` writes `sp` alone. -/
@[simp] theorem State.setSp_v (w : Word) : (s.setSp w).v = s.v := rfl
@[simp] theorem State.setSp_iReg (w : Word) : (s.setSp w).iReg = s.iReg := rfl
@[simp] theorem State.setSp_pc (w : Word) : (s.setSp w).pc = s.pc := rfl
@[simp] theorem State.setSp_sp (w : Word) : (s.setSp w).sp = w := rfl
@[simp] theorem State.setSp_dt (w : Word) : (s.setSp w).dt = s.dt := rfl
@[simp] theorem State.setSp_st (w : Word) : (s.setSp w).st = s.st := rfl
@[simp] theorem State.setSp_key (w : Word) : (s.setSp w).key = s.key := rfl
@[simp] theorem State.setSp_disp (w : Word) : (s.setSp w).disp = s.disp := rfl
@[simp] theorem State.setSp_mem (w : Word) : (s.setSp w).mem = s.mem := rfl
@[simp] theorem State.setSp_halt (w : Word) : (s.setSp w).halt = s.halt := rfl
@[simp] theorem State.setSp_draws (w : Word) : (s.setSp w).draws = s.draws := rfl
@[simp] theorem State.V_setSp (w : Word) (r : RegIdx) : (s.setSp w).V r = s.V r := rfl
@[simp] theorem State.keyFlag_setSp (w : Word) (k : Nat) : (s.setSp w).keyFlag k = s.keyFlag k := rfl
@[simp] theorem State.firstHeld_setSp (w : Word) : (s.setSp w).firstHeld = s.firstHeld := rfl

/-! `setDt` writes `dt` alone. -/
@[simp] theorem State.setDt_v (b : Byte) : (s.setDt b).v = s.v := rfl
@[simp] theorem State.setDt_iReg (b : Byte) : (s.setDt b).iReg = s.iReg := rfl
@[simp] theorem State.setDt_pc (b : Byte) : (s.setDt b).pc = s.pc := rfl
@[simp] theorem State.setDt_sp (b : Byte) : (s.setDt b).sp = s.sp := rfl
@[simp] theorem State.setDt_dt (b : Byte) : (s.setDt b).dt = b := rfl
@[simp] theorem State.setDt_st (b : Byte) : (s.setDt b).st = s.st := rfl
@[simp] theorem State.setDt_key (b : Byte) : (s.setDt b).key = s.key := rfl
@[simp] theorem State.setDt_disp (b : Byte) : (s.setDt b).disp = s.disp := rfl
@[simp] theorem State.setDt_mem (b : Byte) : (s.setDt b).mem = s.mem := rfl
@[simp] theorem State.setDt_halt (b : Byte) : (s.setDt b).halt = s.halt := rfl
@[simp] theorem State.setDt_draws (b : Byte) : (s.setDt b).draws = s.draws := rfl
@[simp] theorem State.V_setDt (b : Byte) (r : RegIdx) : (s.setDt b).V r = s.V r := rfl
@[simp] theorem State.keyFlag_setDt (b : Byte) (k : Nat) : (s.setDt b).keyFlag k = s.keyFlag k := rfl
@[simp] theorem State.firstHeld_setDt (b : Byte) : (s.setDt b).firstHeld = s.firstHeld := rfl

/-! `setSt` writes `st` alone. -/
@[simp] theorem State.setSt_v (b : Byte) : (s.setSt b).v = s.v := rfl
@[simp] theorem State.setSt_iReg (b : Byte) : (s.setSt b).iReg = s.iReg := rfl
@[simp] theorem State.setSt_pc (b : Byte) : (s.setSt b).pc = s.pc := rfl
@[simp] theorem State.setSt_sp (b : Byte) : (s.setSt b).sp = s.sp := rfl
@[simp] theorem State.setSt_dt (b : Byte) : (s.setSt b).dt = s.dt := rfl
@[simp] theorem State.setSt_st (b : Byte) : (s.setSt b).st = b := rfl
@[simp] theorem State.setSt_key (b : Byte) : (s.setSt b).key = s.key := rfl
@[simp] theorem State.setSt_disp (b : Byte) : (s.setSt b).disp = s.disp := rfl
@[simp] theorem State.setSt_mem (b : Byte) : (s.setSt b).mem = s.mem := rfl
@[simp] theorem State.setSt_halt (b : Byte) : (s.setSt b).halt = s.halt := rfl
@[simp] theorem State.setSt_draws (b : Byte) : (s.setSt b).draws = s.draws := rfl
@[simp] theorem State.V_setSt (b : Byte) (r : RegIdx) : (s.setSt b).V r = s.V r := rfl
@[simp] theorem State.keyFlag_setSt (b : Byte) (k : Nat) : (s.setSt b).keyFlag k = s.keyFlag k := rfl
@[simp] theorem State.firstHeld_setSt (b : Byte) : (s.setSt b).firstHeld = s.firstHeld := rfl

/-! `setDisp` writes `disp` alone. -/
@[simp] theorem State.setDisp_v (d : Display) : (s.setDisp d).v = s.v := rfl
@[simp] theorem State.setDisp_iReg (d : Display) : (s.setDisp d).iReg = s.iReg := rfl
@[simp] theorem State.setDisp_pc (d : Display) : (s.setDisp d).pc = s.pc := rfl
@[simp] theorem State.setDisp_sp (d : Display) : (s.setDisp d).sp = s.sp := rfl
@[simp] theorem State.setDisp_dt (d : Display) : (s.setDisp d).dt = s.dt := rfl
@[simp] theorem State.setDisp_st (d : Display) : (s.setDisp d).st = s.st := rfl
@[simp] theorem State.setDisp_key (d : Display) : (s.setDisp d).key = s.key := rfl
@[simp] theorem State.setDisp_disp (d : Display) : (s.setDisp d).disp = d := rfl
@[simp] theorem State.setDisp_mem (d : Display) : (s.setDisp d).mem = s.mem := rfl
@[simp] theorem State.setDisp_halt (d : Display) : (s.setDisp d).halt = s.halt := rfl
@[simp] theorem State.setDisp_draws (d : Display) : (s.setDisp d).draws = s.draws := rfl
@[simp] theorem State.V_setDisp (d : Display) (r : RegIdx) : (s.setDisp d).V r = s.V r := rfl
@[simp] theorem State.keyFlag_setDisp (d : Display) (k : Nat) : (s.setDisp d).keyFlag k = s.keyFlag k := rfl
@[simp] theorem State.firstHeld_setDisp (d : Display) : (s.setDisp d).firstHeld = s.firstHeld := rfl

/-! `setMem` writes `mem` alone. -/
@[simp] theorem State.setMem_v (m : Memory) : (s.setMem m).v = s.v := rfl
@[simp] theorem State.setMem_iReg (m : Memory) : (s.setMem m).iReg = s.iReg := rfl
@[simp] theorem State.setMem_pc (m : Memory) : (s.setMem m).pc = s.pc := rfl
@[simp] theorem State.setMem_sp (m : Memory) : (s.setMem m).sp = s.sp := rfl
@[simp] theorem State.setMem_dt (m : Memory) : (s.setMem m).dt = s.dt := rfl
@[simp] theorem State.setMem_st (m : Memory) : (s.setMem m).st = s.st := rfl
@[simp] theorem State.setMem_key (m : Memory) : (s.setMem m).key = s.key := rfl
@[simp] theorem State.setMem_disp (m : Memory) : (s.setMem m).disp = s.disp := rfl
@[simp] theorem State.setMem_mem (m : Memory) : (s.setMem m).mem = m := rfl
@[simp] theorem State.setMem_halt (m : Memory) : (s.setMem m).halt = s.halt := rfl
@[simp] theorem State.setMem_draws (m : Memory) : (s.setMem m).draws = s.draws := rfl
@[simp] theorem State.V_setMem (m : Memory) (r : RegIdx) : (s.setMem m).V r = s.V r := rfl
@[simp] theorem State.keyFlag_setMem (m : Memory) (k : Nat) : (s.setMem m).keyFlag k = s.keyFlag k := rfl
@[simp] theorem State.firstHeld_setMem (m : Memory) : (s.setMem m).firstHeld = s.firstHeld := rfl

/-! `setKeys` writes `key` alone. -/
@[simp] theorem State.setKeys_v (k : Vector Bool 16) : (s.setKeys k).v = s.v := rfl
@[simp] theorem State.setKeys_iReg (k : Vector Bool 16) : (s.setKeys k).iReg = s.iReg := rfl
@[simp] theorem State.setKeys_pc (k : Vector Bool 16) : (s.setKeys k).pc = s.pc := rfl
@[simp] theorem State.setKeys_sp (k : Vector Bool 16) : (s.setKeys k).sp = s.sp := rfl
@[simp] theorem State.setKeys_dt (k : Vector Bool 16) : (s.setKeys k).dt = s.dt := rfl
@[simp] theorem State.setKeys_st (k : Vector Bool 16) : (s.setKeys k).st = s.st := rfl
@[simp] theorem State.setKeys_key (k : Vector Bool 16) : (s.setKeys k).key = k := rfl
@[simp] theorem State.setKeys_disp (k : Vector Bool 16) : (s.setKeys k).disp = s.disp := rfl
@[simp] theorem State.setKeys_mem (k : Vector Bool 16) : (s.setKeys k).mem = s.mem := rfl
@[simp] theorem State.setKeys_halt (k : Vector Bool 16) : (s.setKeys k).halt = s.halt := rfl
@[simp] theorem State.setKeys_draws (k : Vector Bool 16) : (s.setKeys k).draws = s.draws := rfl
@[simp] theorem State.V_setKeys (k : Vector Bool 16) (r : RegIdx) : (s.setKeys k).V r = s.V r := rfl

/-! `setHalt` writes `halt` alone. -/
@[simp] theorem State.setHalt_v (h : Option FaultRecord) : (s.setHalt h).v = s.v := rfl
@[simp] theorem State.setHalt_iReg (h : Option FaultRecord) : (s.setHalt h).iReg = s.iReg := rfl
@[simp] theorem State.setHalt_pc (h : Option FaultRecord) : (s.setHalt h).pc = s.pc := rfl
@[simp] theorem State.setHalt_sp (h : Option FaultRecord) : (s.setHalt h).sp = s.sp := rfl
@[simp] theorem State.setHalt_dt (h : Option FaultRecord) : (s.setHalt h).dt = s.dt := rfl
@[simp] theorem State.setHalt_st (h : Option FaultRecord) : (s.setHalt h).st = s.st := rfl
@[simp] theorem State.setHalt_key (h : Option FaultRecord) : (s.setHalt h).key = s.key := rfl
@[simp] theorem State.setHalt_disp (h : Option FaultRecord) : (s.setHalt h).disp = s.disp := rfl
@[simp] theorem State.setHalt_mem (h : Option FaultRecord) : (s.setHalt h).mem = s.mem := rfl
@[simp] theorem State.setHalt_halt (h : Option FaultRecord) : (s.setHalt h).halt = h := rfl
@[simp] theorem State.setHalt_draws (h : Option FaultRecord) : (s.setHalt h).draws = s.draws := rfl
@[simp] theorem State.V_setHalt (h : Option FaultRecord) (r : RegIdx) : (s.setHalt h).V r = s.V r := rfl
@[simp] theorem State.keyFlag_setHalt (h : Option FaultRecord) (k : Nat) : (s.setHalt h).keyFlag k = s.keyFlag k := rfl
@[simp] theorem State.firstHeld_setHalt (h : Option FaultRecord) : (s.setHalt h).firstHeld = s.firstHeld := rfl

/-! `bumpDraws` writes `draws` alone. -/
@[simp] theorem State.bumpDraws_v : (s.bumpDraws).v = s.v := rfl
@[simp] theorem State.bumpDraws_iReg : (s.bumpDraws).iReg = s.iReg := rfl
@[simp] theorem State.bumpDraws_pc : (s.bumpDraws).pc = s.pc := rfl
@[simp] theorem State.bumpDraws_sp : (s.bumpDraws).sp = s.sp := rfl
@[simp] theorem State.bumpDraws_dt : (s.bumpDraws).dt = s.dt := rfl
@[simp] theorem State.bumpDraws_st : (s.bumpDraws).st = s.st := rfl
@[simp] theorem State.bumpDraws_key : (s.bumpDraws).key = s.key := rfl
@[simp] theorem State.bumpDraws_disp : (s.bumpDraws).disp = s.disp := rfl
@[simp] theorem State.bumpDraws_mem : (s.bumpDraws).mem = s.mem := rfl
@[simp] theorem State.bumpDraws_halt : (s.bumpDraws).halt = s.halt := rfl
@[simp] theorem State.bumpDraws_draws : (s.bumpDraws).draws = s.draws + 1 := rfl
@[simp] theorem State.V_bumpDraws (r : RegIdx) : (s.bumpDraws).V r = s.V r := rfl
@[simp] theorem State.keyFlag_bumpDraws (k : Nat) : (s.bumpDraws).keyFlag k = s.keyFlag k := rfl
@[simp] theorem State.firstHeld_bumpDraws : (s.bumpDraws).firstHeld = s.firstHeld := rfl

/-! `advance` writes `pc` alone. -/
@[simp] theorem State.advance_v : (s.advance).v = s.v := rfl
@[simp] theorem State.advance_iReg : (s.advance).iReg = s.iReg := rfl
@[simp] theorem State.advance_pc : (s.advance).pc = s.pc + 2 := rfl
@[simp] theorem State.advance_sp : (s.advance).sp = s.sp := rfl
@[simp] theorem State.advance_dt : (s.advance).dt = s.dt := rfl
@[simp] theorem State.advance_st : (s.advance).st = s.st := rfl
@[simp] theorem State.advance_key : (s.advance).key = s.key := rfl
@[simp] theorem State.advance_disp : (s.advance).disp = s.disp := rfl
@[simp] theorem State.advance_mem : (s.advance).mem = s.mem := rfl
@[simp] theorem State.advance_halt : (s.advance).halt = s.halt := rfl
@[simp] theorem State.advance_draws : (s.advance).draws = s.draws := rfl
@[simp] theorem State.V_advance (r : RegIdx) : (s.advance).V r = s.V r := rfl
@[simp] theorem State.keyFlag_advance (k : Nat) : (s.advance).keyFlag k = s.keyFlag k := rfl
@[simp] theorem State.firstHeld_advance : (s.advance).firstHeld = s.firstHeld := rfl

/-! `takeFault` writes `halt` alone. -/
@[simp] theorem State.takeFault_v (op : Option Word) (f : Fault) : (s.takeFault op f).v = s.v := rfl
@[simp] theorem State.takeFault_iReg (op : Option Word) (f : Fault) : (s.takeFault op f).iReg = s.iReg := rfl
@[simp] theorem State.takeFault_pc (op : Option Word) (f : Fault) : (s.takeFault op f).pc = s.pc := rfl
@[simp] theorem State.takeFault_sp (op : Option Word) (f : Fault) : (s.takeFault op f).sp = s.sp := rfl
@[simp] theorem State.takeFault_dt (op : Option Word) (f : Fault) : (s.takeFault op f).dt = s.dt := rfl
@[simp] theorem State.takeFault_st (op : Option Word) (f : Fault) : (s.takeFault op f).st = s.st := rfl
@[simp] theorem State.takeFault_key (op : Option Word) (f : Fault) : (s.takeFault op f).key = s.key := rfl
@[simp] theorem State.takeFault_disp (op : Option Word) (f : Fault) : (s.takeFault op f).disp = s.disp := rfl
@[simp] theorem State.takeFault_mem (op : Option Word) (f : Fault) : (s.takeFault op f).mem = s.mem := rfl
@[simp] theorem State.takeFault_halt (op : Option Word) (f : Fault) : (s.takeFault op f).halt = some (f.record s.pc op) := rfl
@[simp] theorem State.takeFault_draws (op : Option Word) (f : Fault) : (s.takeFault op f).draws = s.draws := rfl
@[simp] theorem State.V_takeFault (op : Option Word) (f : Fault) (r : RegIdx) : (s.takeFault op f).V r = s.V r := rfl
@[simp] theorem State.keyFlag_takeFault (op : Option Word) (f : Fault) (k : Nat) : (s.takeFault op f).keyFlag k = s.keyFlag k := rfl
@[simp] theorem State.firstHeld_takeFault (op : Option Word) (f : Fault) : (s.takeFault op f).firstHeld = s.firstHeld := rfl

/-! ### The register file -/

/-- A register read after a register write. -/
theorem State.V_setV (x : RegIdx) (b : Byte) (r : RegIdx) : (s.setV x b).V r = if r = x then b else s.V r := by
  simp only [State.V, State.setV, Vector.getElem_set]
  by_cases h : r = x
  · simp [h]
  · have : x.toNat ≠ r.toNat := fun e => h (BitVec.eq_of_toNat_eq e).symm
    simp [h, this]

@[simp] theorem State.V_setV_self (x : RegIdx) (b : Byte) : (s.setV x b).V x = b := by simp [State.V_setV]

theorem State.V_setV_ne (x : RegIdx) (b : Byte) (r : RegIdx) (h : r ≠ x) : (s.setV x b).V r = s.V r := by
  simp [State.V_setV, h]

/-! ### Skips -/

theorem State.skipIf_true : s.skipIf true = s.setPc (s.pc + 2) := rfl
theorem State.skipIf_false : s.skipIf false = s := rfl

/-- A skip writes PC alone. -/
theorem State.skipIf_eq (c : Bool) : s.skipIf c = s.setPc (if c then s.pc + 2 else s.pc) := by
  cases c <;> rfl

end Sys2Proof.Machine
end

