-- ==== Sys2Proof/Laws/Ops.lean ====
section
/-! SUPPORT. One lemma for each shared operation, saying all it can do. -/

namespace Sys2Proof.Machine

/-! ### Single bytes -/

theorem State.memRead_eq (s : State) (a : Nat) :
    s.memRead a = if a < 4096 then .ok (s.mem.byte a) else .error (.memoryAddress a) := rfl

theorem State.memWrite_eq (s : State) (a : Nat) (b : Byte) :
    s.memWrite a b = if a < 4096 then .ok (s.setMem (s.mem.put a b)) else .error (.memoryAddress a) := rfl

/-! ### Byte sequences: the lowest address out of range raises -/

/-- Reads of n bytes from a: the bytes if all are in range, else a fault at the lowest address that is not. -/
theorem State.readBytes_eq (s : State) (n a : Nat) :
    s.readBytes a n = if n = 0 ∨ a + n ≤ 4096 then .ok ((List.range n).map (fun k => s.mem.byte (a + k)))
      else .error (.memoryAddress (max a 4096)) := by
  induction n generalizing a with
  | zero => rfl
  | succ n ih =>
    rw [State.readBytes, State.memRead_eq, ih]
    by_cases h1 : a < 4096
    · by_cases h2 : n = 0 ∨ a + 1 + n ≤ 4096
      · have h3 : n + 1 = 0 ∨ a + (n + 1) ≤ 4096 := by omega
        simp only [h1, h2, h3, if_true]
        simp [List.range_succ_eq_map, Function.comp_def, Nat.add_assoc, Nat.add_comm 1]
      · have h3 : ¬ (n + 1 = 0 ∨ a + (n + 1) ≤ 4096) := by omega
        have h4 : max (a + 1) 4096 = max a 4096 := by omega
        simp only [h1, h2, h3, if_true, if_false, h4]
    · have h3 : ¬ (n + 1 = 0 ∨ a + (n + 1) ≤ 4096) := by omega
      have h4 : max a 4096 = a := by omega
      simp only [h1, h3, if_false, h4]

/-- Writes of bytes from a: memory with them, if all are in range, else a fault at the lowest address that is not. -/
theorem State.writeBytes_eq (bs : List Byte) (s : State) (a : Nat) :
    s.writeBytes a bs = if bs = [] ∨ a + bs.length ≤ 4096 then .ok (s.setMem (s.mem.putBytes a bs))
      else .error (.memoryAddress (max a 4096)) := by
  induction bs generalizing s a with
  | nil => rfl
  | cons b bs ih =>
    rw [State.writeBytes, State.memWrite_eq]
    by_cases h1 : a < 4096
    · simp only [h1, if_true, ih]
      by_cases h2 : bs = [] ∨ a + 1 + bs.length ≤ 4096
      · have h3 : (b :: bs) = [] ∨ a + (b :: bs).length ≤ 4096 := by
          rcases h2 with rfl | h2
          · right; simp; omega
          · right; simp; omega
        simp only [h2, h3, if_true]
        rfl
      · have h3 : ¬ ((b :: bs) = [] ∨ a + (b :: bs).length ≤ 4096) := by
          simp only [not_or] at h2 ⊢
          exact ⟨by simp, by simp; omega⟩
        have h4 : max (a + 1) 4096 = max a 4096 := by omega
        simp only [h2, h3, if_false, h4]
    · have h3 : ¬ ((b :: bs) = [] ∨ a + (b :: bs).length ≤ 4096) := by
        simp only [not_or]
        exact ⟨by simp, by simp; omega⟩
      have h4 : max a 4096 = a := by omega
      simp only [h1, h3, if_false, h4]

/-! ### Fetch -/

/-- The fetch: two bytes, or a fault at the lowest address out of range. -/
theorem State.fetchOpcode_eq (s : State) :
    s.fetchOpcode = if s.pc.toNat + 1 < 4096 then .ok (wordOfBytes (s.mem.byte s.pc.toNat) (s.mem.byte (s.pc.toNat + 1)))
      else .error (.memoryAddress (max s.pc.toNat 4096)) := by
  unfold State.fetchOpcode
  rw [State.memRead_eq, State.memRead_eq]
  by_cases h1 : s.pc.toNat + 1 < 4096
  · have h2 : s.pc.toNat < 4096 := by omega
    simp [h1, h2]
  · by_cases h2 : s.pc.toNat < 4096
    · have h3 : max s.pc.toNat 4096 = s.pc.toNat + 1 := by omega
      simp [h1, h2, h3]
    · have h3 : max s.pc.toNat 4096 = s.pc.toNat := by omega
      simp [h1, h2, h3]

/-! ### The stack -/

/-- A push on a stack with room and with SP inside memory. -/
theorem State.push_ok (s : State) (depth : Nat) (w : Word) (h1 : s.stackUsed < depth) (h2 : s.sp.toNat < 4096) :
    s.push depth w =
      .ok ((s.setMem ((s.mem.put (s.sp.toNat - 1) (highByte w)).put s.sp.toNat (lowByte w))).setSp (s.sp - 2)) := by
  have h3 : ¬ s.stackUsed ≥ depth := by omega
  have h4 : s.sp.toNat - 1 < 4096 := by omega
  unfold State.push
  rw [if_neg h3]
  simp [State.memWrite_eq, h2, h4, State.setMem]

/-- A push on a full stack. -/
theorem State.push_full (s : State) (depth : Nat) (w : Word) (h : depth ≤ s.stackUsed) :
    s.push depth w = .error .stackOverflow := by
  unfold State.push
  rw [if_pos h]

theorem State.pop_eq (s : State) :
    s.pop = if s.sp.toNat = 0x0EFF then .error .stackUnderflow
      else
        match s.memRead (s.sp.toNat + 1) with
        | .error f => .error f
        | .ok hi =>
          match s.memRead (s.sp.toNat + 2) with
          | .error f => .error f
          | .ok lo => .ok (wordOfBytes hi lo, s.setSp (s.sp + 2)) := rfl

/-- A pop from a stack that is not empty and whose entry is inside memory. -/
theorem State.pop_ok (s : State) (h1 : s.sp.toNat ≠ 0x0EFF) (h2 : s.sp.toNat + 2 < 4096) :
    s.pop = .ok (wordOfBytes (s.mem.byte (s.sp.toNat + 1)) (s.mem.byte (s.sp.toNat + 2)), s.setSp (s.sp + 2)) := by
  rw [State.pop_eq, if_neg h1]
  have h3 : s.sp.toNat + 1 < 4096 := by omega
  simp [State.memRead_eq, h2, h3]

/-- A pop from the empty stack. -/
theorem State.pop_empty (s : State) (h : s.sp.toNat = 0x0EFF) : s.pop = .error .stackUnderflow := by
  rw [State.pop_eq, if_pos h]

/-- Whatever a push answers, it changes memory and SP alone, and only inside memory. -/
theorem State.push_inv (s t : State) (depth : Nat) (w : Word) (h : s.push depth w = .ok t) :
    s.stackUsed < depth ∧ s.sp.toNat < 4096 ∧
      t = (s.setMem ((s.mem.put (s.sp.toNat - 1) (highByte w)).put s.sp.toNat (lowByte w))).setSp (s.sp - 2) := by
  by_cases h1 : depth ≤ s.stackUsed
  · rw [State.push_full _ _ _ h1] at h; cases h
  · by_cases h2 : s.sp.toNat < 4096
    · rw [State.push_ok _ _ _ (by omega) h2] at h
      exact ⟨by omega, h2, by cases h; rfl⟩
    · exfalso
      unfold State.push at h
      rw [if_neg (by omega)] at h
      simp only [State.memWrite_eq] at h
      by_cases h3 : s.sp.toNat - 1 < 4096
      · simp [h3, h2] at h
      · simp [h3] at h

/-- Whatever a pop answers, it changes SP alone. -/
theorem State.pop_inv (s t : State) (w : Word) (h : s.pop = .ok (w, t)) :
    s.sp.toNat ≠ 0x0EFF ∧ s.sp.toNat + 2 < 4096 ∧
      w = wordOfBytes (s.mem.byte (s.sp.toNat + 1)) (s.mem.byte (s.sp.toNat + 2)) ∧ t = s.setSp (s.sp + 2) := by
  by_cases h1 : s.sp.toNat = 0x0EFF
  · rw [State.pop_empty _ h1] at h; cases h
  · by_cases h2 : s.sp.toNat + 2 < 4096
    · rw [State.pop_ok _ h1 h2] at h
      cases h
      exact ⟨h1, h2, rfl, rfl⟩
    · exfalso
      rw [State.pop_eq, if_neg h1] at h
      simp only [State.memRead_eq] at h
      by_cases h3 : s.sp.toNat + 1 < 4096
      · simp [h3, h2] at h
      · simp [h3] at h

/-! ### Keys -/

theorem State.keyHeld_ok (s : State) (k : Byte) (h : k.toNat < 16) : s.keyHeld k = .ok (s.keyFlag k.toNat) := by
  unfold State.keyHeld
  rw [if_neg (by omega)]

theorem State.keyHeld_error (s : State) (k : Byte) (h : 16 ≤ k.toNat) : s.keyHeld k = .error (.keyIndex k) := by
  unfold State.keyHeld
  rw [if_pos h]

/-- No key is held exactly when FirstHeld answers none. -/
theorem State.firstHeld_none (s : State) : s.firstHeld = none ↔ ∀ k, k < 16 → s.keyFlag k = false := by
  simp [State.firstHeld, List.find?_eq_none]

/-- FirstHeld answers a held key below 16, and no lower key is held. -/
theorem State.firstHeld_some (s : State) (k : Nat) (h : s.firstHeld = some k) :
    k < 16 ∧ s.keyFlag k = true ∧ ∀ j, j < k → s.keyFlag j = false := by
  obtain ⟨h1, as, bs, h2, h3⟩ := List.find?_eq_some_iff_append.1 h
  have hlen : as.length < 16 := by
    have := congrArg List.length h2
    simp at this
    omega
  have hget : ∀ j, j < 16 → (as ++ k :: bs)[j]? = some j := by
    intro j hj
    rw [← h2]
    simp [hj]
  have hk : k = as.length := by
    have := hget as.length hlen
    simp at this
    exact this
  refine ⟨by omega, h1, fun j hj => ?_⟩
  have hj' := hget j (by omega)
  rw [List.getElem?_append_left (by omega)] at hj'
  have := h3 j (List.mem_of_getElem? hj')
  simpa using this

/-! ### Register lists -/

/-- Loading bytes into V[k], V[k+1], …: the registers that get one, and the others. -/
theorem State.V_setVs (bs : List Byte) (s : State) (k : Nat) (r : RegIdx) (hk : k + bs.length ≤ 16) :
    (s.setVs k bs).V r = if k ≤ r.toNat ∧ r.toNat < k + bs.length then bs.getD (r.toNat - k) 0 else s.V r := by
  induction bs generalizing s k with
  | nil => simp [State.setVs]
  | cons b bs ih =>
    simp only [List.length_cons] at hk
    rw [State.setVs, ih _ _ (by omega), State.V_setV]
    have hreg : r = regOf k ↔ r.toNat = k := by
      constructor
      · rintro rfl
        simp [regOf]
        omega
      · intro h
        apply BitVec.eq_of_toNat_eq
        simp [regOf, ← h]
    by_cases h1 : k + 1 ≤ r.toNat ∧ r.toNat < k + 1 + bs.length
    · have h2 : k ≤ r.toNat ∧ r.toNat < k + (b :: bs).length := by simp; omega
      have h3 : r.toNat - k = (r.toNat - (k + 1)) + 1 := by omega
      rw [if_pos h1, if_pos h2, h3]
      simp
    · by_cases h4 : r.toNat = k
      · have h2 : k ≤ r.toNat ∧ r.toNat < k + (b :: bs).length := by simp; omega
        rw [if_neg h1, if_pos h2, if_pos (hreg.2 h4)]
        simp [h4]
      · have h2 : ¬ (k ≤ r.toNat ∧ r.toNat < k + (b :: bs).length) := by simp; omega
        rw [if_neg h1, if_neg h2, if_neg (fun e => h4 (hreg.1 e))]

/-- Loading registers writes V alone. -/
theorem State.setVs_frame (bs : List Byte) (s : State) (k : Nat) :
    ∃ v, s.setVs k bs = { s with v := v } := by
  induction bs generalizing s k with
  | nil => exact ⟨s.v, rfl⟩
  | cons b bs ih =>
    obtain ⟨v, hv⟩ := ih (s.setV (regOf k) b) (k + 1)
    exact ⟨v, by rw [State.setVs, hv]; rfl⟩

theorem State.regsUpTo_length (s : State) (x : RegIdx) : (s.regsUpTo x).length = x.toNat + 1 := by
  simp [State.regsUpTo]

/-! ### Taking a fault -/

theorem State.commit_ok (s : State) (op : Word) (t : State) : s.commit op (.ok t) = .next t := rfl

theorem State.commit_error (s : State) (op : Word) (f : Fault) :
    s.commit op (.error f) = .next (s.takeFault (some op) f) := rfl

/-- An instruction that goes through `commit` always answers a next state: its own, or s with HALT set. -/
theorem State.commit_cases (s : State) (op : Word) (e : Except Fault State) (t : State) (h : s.commit op e = .next t) :
    e = .ok t ∨ ∃ f, e = .error f ∧ t = s.takeFault (some op) f := by
  cases e with
  | ok u => cases h; exact .inl rfl
  | error f => cases h; exact .inr ⟨f, rfl, rfl⟩

end Sys2Proof.Machine
end

