-- ==== Sys2Proof/Laws/Bodies.lean ====
section
/-! SUPPORT. One lemma for each body that several claims cite: call and return, key skips, register load, draw, key wait, result
and flag. -/

namespace Sys2Proof.Machine

/-- The result goes to V[x] first and the flag to VF second (R201): what each register reads after. -/
theorem State.V_setResultAndFlag (s : State) (x : RegIdx) (out : Byte × Bool) (r : RegIdx) :
    (s.setResultAndFlag x out).V r = if r = 0xF then flagByte out.2 else if r = x then out.1 else s.V r := by
  simp only [State.setResultAndFlag, State.V_setV, regF]

/-- Result and flag write V alone. -/
theorem State.setResultAndFlag_eq (s : State) (x : RegIdx) (out : Byte × Bool) :
    s.setResultAndFlag x out = { s with v := (s.setResultAndFlag x out).v } := rfl

/-- Whatever CALL's body answers: the push, and PC at the target. -/
theorem State.callTo_inv (s t : State) (depth : Nat) (nnn : Addr12) (h : s.callTo depth nnn = .ok t) :
    s.stackUsed < depth ∧ s.sp.toNat < 4096 ∧
      t = ((s.setMem ((s.mem.put (s.sp.toNat - 1) (highByte s.pc)).put s.sp.toNat (lowByte s.pc))).setSp (s.sp - 2)).setPc
        (zextAddr nnn) := by
  unfold State.callTo at h
  split at h
  · cases h
  · rename_i s1 h1
    obtain ⟨h2, h3, h4⟩ := State.push_inv _ _ _ _ h1
    cases h
    exact ⟨h2, h3, by rw [h4]⟩

/-- Whatever RET's body answers: PC at the popped word, SP above it. -/
theorem State.returnToCaller_inv (s t : State) (h : s.returnToCaller = .ok t) :
    s.sp.toNat ≠ 0x0EFF ∧ s.sp.toNat + 2 < 4096 ∧
      t = (s.setSp (s.sp + 2)).setPc (wordOfBytes (s.mem.byte (s.sp.toNat + 1)) (s.mem.byte (s.sp.toNat + 2))) := by
  unfold State.returnToCaller at h
  split at h
  · cases h
  · rename_i a s1 h1
    obtain ⟨h2, h3, h4, h5⟩ := State.pop_inv _ _ _ h1
    cases h
    exact ⟨h2, h3, by rw [h4, h5]⟩

/-- A key skip: on a key index it is a skip, past the last key it raises. -/
theorem State.skipOnKey_eq (s : State) (held : Bool) (k : Byte) :
    s.skipOnKey held k =
      if k.toNat < 16 then .ok (s.skipIf (s.keyFlag k.toNat == held)) else .error (.keyIndex k) := by
  unfold State.skipOnKey
  by_cases h : k.toNat < 16
  · rw [State.keyHeld_ok _ _ h, if_pos h]
  · rw [State.keyHeld_error _ _ (by omega), if_neg h]

/-- The register load: all x + 1 bytes are read first. -/
theorem State.loadRegs_eq (s : State) (x : RegIdx) :
    s.loadRegs x =
      if s.iReg.toNat + (x.toNat + 1) ≤ 4096 then
        .ok (s.setVs 0 ((List.range (x.toNat + 1)).map (fun k => s.mem.byte (s.iReg.toNat + k))))
      else .error (.memoryAddress (max s.iReg.toNat 4096)) := by
  unfold State.loadRegs
  rw [State.readBytes_eq]
  by_cases h : s.iReg.toNat + (x.toNat + 1) ≤ 4096
  · rw [if_pos (.inr h), if_pos h]
  · rw [if_neg (by omega), if_neg h]

/-- The draw: all n bytes are read first; then the display and VF change. -/
theorem State.drawFrom_eq (s : State) (cx cy : Byte) (n : Nibble) :
    s.drawFrom cx cy n =
      if n.toNat = 0 ∨ s.iReg.toNat + n.toNat ≤ 4096 then
        let rows := (List.range n.toNat).map (fun k => s.mem.byte (s.iReg.toNat + k))
        .ok ((s.setDisp (s.disp.drawSprite cx.toNat cy.toNat rows).1).setV 0xF
          (flagByte (s.disp.drawSprite cx.toNat cy.toNat rows).2))
      else .error (.memoryAddress (max s.iReg.toNat 4096)) := by
  unfold State.drawFrom
  rw [State.readBytes_eq]
  by_cases h : n.toNat = 0 ∨ s.iReg.toNat + n.toNat ≤ 4096
  · simp only [if_pos h]
    rfl
  · simp only [if_neg h]

/-- The key wait writes PC or one register. -/
theorem State.waitKey_cases (s : State) (x : RegIdx) :
    (s.firstHeld = none ∧ s.waitKey x = s.setPc (s.pc - 2)) ∨
      ∃ k, s.firstHeld = some k ∧ s.waitKey x = s.setV x (BitVec.ofNat 8 k) := by
  unfold State.waitKey
  cases h : s.firstHeld with
  | none => exact .inl ⟨rfl, rfl⟩
  | some k => exact .inr ⟨k, rfl, rfl⟩

end Sys2Proof.Machine
end

