-- ==== Sys2Proof/Laws/Encoding.lean ====
section
/-! SUPPORT. The fields of an encoded word, and the two bytes of a word. -/

namespace Sys2Proof

/-- Concatenation as a number: the left part counts the right part's width. -/
theorem append_toNat {m n : Nat} (a : BitVec m) (b : BitVec n) : (a ++ b).toNat = a.toNat * 2 ^ n + b.toNat := by
  rw [BitVec.toNat_append, Nat.shiftLeft_eq, Nat.mul_comm, Nat.two_pow_add_eq_or_of_lt b.isLt]

theorem wordOfBytes_toNat (hi lo : Byte) : (wordOfBytes hi lo).toNat = hi.toNat * 256 + lo.toNat := append_toNat hi lo

/-- The two bytes of a word make the word again. -/
@[simp] theorem wordOfBytes_high_low (w : Word) : wordOfBytes (highByte w) (lowByte w) = w := by
  apply BitVec.eq_of_toNat_eq
  have := w.isLt
  rw [wordOfBytes_toNat]
  simp only [highByte, lowByte, BitVec.extractLsb'_toNat, Nat.shiftRight_eq_div_pow]
  omega

theorem encodeNNN_toNat (c : Nibble) (nnn : Addr12) : (encodeNNN c nnn).toNat = c.toNat * 4096 + nnn.toNat :=
  append_toNat c nnn

theorem encodeXNN_toNat (c x : Nibble) (nn : Byte) :
    (encodeXNN c x nn).toNat = c.toNat * 4096 + x.toNat * 256 + nn.toNat := by
  rw [encodeXNN, append_toNat, append_toNat]
  omega

theorem encodeXYN_toNat (c x y n : Nibble) :
    (encodeXYN c x y n).toNat = c.toNat * 4096 + x.toNat * 256 + y.toNat * 16 + n.toNat := by
  rw [encodeXYN, append_toNat, append_toNat, append_toNat]
  omega

/-! ### The fields as numbers -/

theorem fieldC_toNat (op : Word) : (fieldC op).toNat = op.toNat / 4096 := by
  have := op.isLt
  simp only [fieldC, BitVec.extractLsb'_toNat, Nat.shiftRight_eq_div_pow]
  omega

theorem fieldX_toNat (op : Word) : (fieldX op).toNat = op.toNat / 256 % 16 := by
  simp [fieldX, BitVec.extractLsb'_toNat, Nat.shiftRight_eq_div_pow]

theorem fieldY_toNat (op : Word) : (fieldY op).toNat = op.toNat / 16 % 16 := by
  simp [fieldY, BitVec.extractLsb'_toNat, Nat.shiftRight_eq_div_pow]

theorem fieldN_toNat (op : Word) : (fieldN op).toNat = op.toNat % 16 := by
  simp [fieldN, BitVec.extractLsb'_toNat]

theorem fieldNN_toNat (op : Word) : (fieldNN op).toNat = op.toNat % 256 := by
  simp [fieldNN, BitVec.extractLsb'_toNat]

theorem fieldNNN_toNat (op : Word) : (fieldNNN op).toNat = op.toNat % 4096 := by
  simp [fieldNNN, BitVec.extractLsb'_toNat]

/-! ### The fields of an encoded word -/

@[simp] theorem fieldC_encodeNNN (c : Nibble) (nnn : Addr12) : fieldC (encodeNNN c nnn) = c := by
  apply BitVec.eq_of_toNat_eq
  have := nnn.isLt
  rw [fieldC_toNat, encodeNNN_toNat]
  omega

@[simp] theorem fieldNNN_encodeNNN (c : Nibble) (nnn : Addr12) : fieldNNN (encodeNNN c nnn) = nnn := by
  apply BitVec.eq_of_toNat_eq
  have := nnn.isLt
  rw [fieldNNN_toNat, encodeNNN_toNat]
  omega

@[simp] theorem fieldC_encodeXNN (c x : Nibble) (nn : Byte) : fieldC (encodeXNN c x nn) = c := by
  apply BitVec.eq_of_toNat_eq
  have := nn.isLt
  have := x.isLt
  rw [fieldC_toNat, encodeXNN_toNat]
  omega

@[simp] theorem fieldX_encodeXNN (c x : Nibble) (nn : Byte) : fieldX (encodeXNN c x nn) = x := by
  apply BitVec.eq_of_toNat_eq
  have := nn.isLt
  have := x.isLt
  rw [fieldX_toNat, encodeXNN_toNat]
  omega

@[simp] theorem fieldNN_encodeXNN (c x : Nibble) (nn : Byte) : fieldNN (encodeXNN c x nn) = nn := by
  apply BitVec.eq_of_toNat_eq
  have := nn.isLt
  rw [fieldNN_toNat, encodeXNN_toNat]
  omega

@[simp] theorem fieldC_encodeXYN (c x y n : Nibble) : fieldC (encodeXYN c x y n) = c := by
  apply BitVec.eq_of_toNat_eq
  have := n.isLt
  have := y.isLt
  have := x.isLt
  rw [fieldC_toNat, encodeXYN_toNat]
  omega

@[simp] theorem fieldX_encodeXYN (c x y n : Nibble) : fieldX (encodeXYN c x y n) = x := by
  apply BitVec.eq_of_toNat_eq
  have := n.isLt
  have := y.isLt
  have := x.isLt
  rw [fieldX_toNat, encodeXYN_toNat]
  omega

@[simp] theorem fieldY_encodeXYN (c x y n : Nibble) : fieldY (encodeXYN c x y n) = y := by
  apply BitVec.eq_of_toNat_eq
  have := n.isLt
  have := y.isLt
  rw [fieldY_toNat, encodeXYN_toNat]
  omega

@[simp] theorem fieldN_encodeXYN (c x y n : Nibble) : fieldN (encodeXYN c x y n) = n := by
  apply BitVec.eq_of_toNat_eq
  have := n.isLt
  rw [fieldN_toNat, encodeXYN_toNat]
  omega

end Sys2Proof
end

