-- ==== Sys2Proof/Laws/PerInstr.lean ====
section
/-! SUPPORT. Laws for all instructions, one lemma for each constructor: the encoded word of an instruction is one of its row of
spec/opcode_table.json (word AND mask = match). -/

namespace Sys2Proof.Laws

theorem append_and_append {m n : Nat} (a c : BitVec m) (b d : BitVec n) : (a ++ b) &&& (c ++ d) = (a &&& c) ++ (b &&& d) := by
  ext i hi
  simp only [BitVec.getElem_and, BitVec.getElem_append]
  split <;> simp

theorem encodeNNN_and (c mc : Nibble) (nnn mn : Addr12) :
    encodeNNN c nnn &&& encodeNNN mc mn = encodeNNN (c &&& mc) (nnn &&& mn) :=
  append_and_append ..

theorem encodeXNN_and (c x mc mx : Nibble) (nn mn : Byte) :
    encodeXNN c x nn &&& encodeXNN mc mx mn = encodeXNN (c &&& mc) (x &&& mx) (nn &&& mn) :=
  (append_and_append (c ++ x) (mc ++ mx) nn mn).trans (congrArg (· ++ (nn &&& mn)) (append_and_append c mc x mx))

theorem encodeXYN_and (c x y n mc mx my mn : Nibble) :
    encodeXYN c x y n &&& encodeXYN mc mx my mn = encodeXYN (c &&& mc) (x &&& mx) (y &&& my) (n &&& mn) :=
  (append_and_append (c ++ x ++ y) (mc ++ mx ++ my) n mn).trans
    (congrArg (· ++ (n &&& mn)) ((append_and_append (c ++ x) (mc ++ mx) y my).trans
      (congrArg (· ++ (y &&& my)) (append_and_append c mc x mx))))

/-! ### The four masks of the table, as formats -/

theorem maskC_NNN (c : Nibble) (nnn : Addr12) : encodeNNN c nnn &&& 0xF000 = encodeNNN (c &&& 0xF) 0 := by
  rw [show (0xF000 : Word) = encodeNNN 0xF 0 by decide, encodeNNN_and]
  simp only [BitVec.ofNat_eq_ofNat, BitVec.and_zero]

theorem maskC_XNN (c x : Nibble) (nn : Byte) : encodeXNN c x nn &&& 0xF000 = encodeXNN (c &&& 0xF) 0 0 := by
  rw [show (0xF000 : Word) = encodeXNN 0xF 0 0 by decide, encodeXNN_and]
  simp only [BitVec.ofNat_eq_ofNat, BitVec.and_zero]

theorem maskC_XYN (c x y n : Nibble) : encodeXYN c x y n &&& 0xF000 = encodeXYN (c &&& 0xF) 0 0 0 := by
  rw [show (0xF000 : Word) = encodeXYN 0xF 0 0 0 by decide, encodeXYN_and]
  simp only [BitVec.ofNat_eq_ofNat, BitVec.and_zero]

theorem maskCN_XYN (c x y n : Nibble) : encodeXYN c x y n &&& 0xF00F = encodeXYN (c &&& 0xF) 0 0 (n &&& 0xF) := by
  rw [show (0xF00F : Word) = encodeXYN 0xF 0 0 0xF by decide, encodeXYN_and]
  simp only [BitVec.ofNat_eq_ofNat, BitVec.and_zero]

theorem maskCNN_XNN (c x : Nibble) (nn : Byte) : encodeXNN c x nn &&& 0xF0FF = encodeXNN (c &&& 0xF) 0 (nn &&& 0xFF) := by
  rw [show (0xF0FF : Word) = encodeXNN 0xF 0 0xFF by decide, encodeXNN_and]
  simp only [BitVec.ofNat_eq_ofNat, BitVec.and_zero]

/-- The "mask" of the instruction's row of the opcode table. -/
def TableMatch.mask : Instr → Word
  | .cls => 0xFFFF
  | .ret => 0xFFFF
  | .sys _ => 0xF000
  | .jp _ => 0xF000
  | .call _ => 0xF000
  | .seVxNn _ _ => 0xF000
  | .sneVxNn _ _ => 0xF000
  | .seVxVy _ _ => 0xF00F
  | .ldVxNn _ _ => 0xF000
  | .addVxNn _ _ => 0xF000
  | .ldVxVy _ _ => 0xF00F
  | .or _ _ => 0xF00F
  | .and _ _ => 0xF00F
  | .xor _ _ => 0xF00F
  | .addVxVy _ _ => 0xF00F
  | .sub _ _ => 0xF00F
  | .shr _ _ => 0xF00F
  | .subn _ _ => 0xF00F
  | .shl _ _ => 0xF00F
  | .aluUnknown8 _ _ => 0xF00F
  | .aluUnknown9 _ _ => 0xF00F
  | .aluUnknownA _ _ => 0xF00F
  | .aluUnknownB _ _ => 0xF00F
  | .aluUnknownC _ _ => 0xF00F
  | .aluUnknownD _ _ => 0xF00F
  | .aluUnknownF _ _ => 0xF00F
  | .sneVxVy _ _ => 0xF00F
  | .ldI _ => 0xF000
  | .jpV0 _ => 0xF000
  | .rnd _ _ => 0xF000
  | .drw _ _ _ => 0xF000
  | .skp _ => 0xF0FF
  | .sknp _ => 0xF0FF
  | .ldVxDt _ => 0xF0FF
  | .ldVxK _ => 0xF0FF
  | .ldDtVx _ => 0xF0FF
  | .ldStVx _ => 0xF0FF
  | .addIVx _ => 0xF0FF
  | .ldFVx _ => 0xF0FF
  | .ldBVx _ => 0xF0FF
  | .ldMemIVx _ => 0xF0FF
  | .ldVxMemI _ => 0xF0FF

/-- The "match" of the instruction's row of the opcode table. -/
def TableMatch.value : Instr → Word
  | .cls => 0x00E0
  | .ret => 0x00EE
  | .sys _ => 0x0000
  | .jp _ => 0x1000
  | .call _ => 0x2000
  | .seVxNn _ _ => 0x3000
  | .sneVxNn _ _ => 0x4000
  | .seVxVy _ _ => 0x5000
  | .ldVxNn _ _ => 0x6000
  | .addVxNn _ _ => 0x7000
  | .ldVxVy _ _ => 0x8000
  | .or _ _ => 0x8001
  | .and _ _ => 0x8002
  | .xor _ _ => 0x8003
  | .addVxVy _ _ => 0x8004
  | .sub _ _ => 0x8005
  | .shr _ _ => 0x8006
  | .subn _ _ => 0x8007
  | .shl _ _ => 0x800E
  | .aluUnknown8 _ _ => 0x8008
  | .aluUnknown9 _ _ => 0x8009
  | .aluUnknownA _ _ => 0x800A
  | .aluUnknownB _ _ => 0x800B
  | .aluUnknownC _ _ => 0x800C
  | .aluUnknownD _ _ => 0x800D
  | .aluUnknownF _ _ => 0x800F
  | .sneVxVy _ _ => 0x9000
  | .ldI _ => 0xA000
  | .jpV0 _ => 0xB000
  | .rnd _ _ => 0xC000
  | .drw _ _ _ => 0xD000
  | .skp _ => 0xE09E
  | .sknp _ => 0xE0A1
  | .ldVxDt _ => 0xF007
  | .ldVxK _ => 0xF00A
  | .ldDtVx _ => 0xF015
  | .ldStVx _ => 0xF018
  | .addIVx _ => 0xF01E
  | .ldFVx _ => 0xF029
  | .ldBVx _ => 0xF033
  | .ldMemIVx _ => 0xF055
  | .ldVxMemI _ => 0xF065

/-- The encoded word of the instruction matches its row of the opcode table. -/
def TableMatch.Statement (i : Instr) : Prop := encode i &&& TableMatch.mask i = TableMatch.value i

theorem TableMatch.cls : TableMatch.Statement (.cls) := rfl
theorem TableMatch.ret : TableMatch.Statement (.ret) := rfl
theorem TableMatch.sys (nnn : Addr12) : TableMatch.Statement (.sys nnn) :=
  (maskC_NNN ..).trans rfl
theorem TableMatch.jp (nnn : Addr12) : TableMatch.Statement (.jp nnn) :=
  (maskC_NNN ..).trans rfl
theorem TableMatch.call (nnn : Addr12) : TableMatch.Statement (.call nnn) :=
  (maskC_NNN ..).trans rfl
theorem TableMatch.seVxNn (x : RegIdx) (nn : Byte) : TableMatch.Statement (.seVxNn x nn) :=
  (maskC_XNN ..).trans rfl
theorem TableMatch.sneVxNn (x : RegIdx) (nn : Byte) : TableMatch.Statement (.sneVxNn x nn) :=
  (maskC_XNN ..).trans rfl
theorem TableMatch.seVxVy (x y : RegIdx) : TableMatch.Statement (.seVxVy x y) :=
  (maskCN_XYN ..).trans rfl
theorem TableMatch.ldVxNn (x : RegIdx) (nn : Byte) : TableMatch.Statement (.ldVxNn x nn) :=
  (maskC_XNN ..).trans rfl
theorem TableMatch.addVxNn (x : RegIdx) (nn : Byte) : TableMatch.Statement (.addVxNn x nn) :=
  (maskC_XNN ..).trans rfl
theorem TableMatch.ldVxVy (x y : RegIdx) : TableMatch.Statement (.ldVxVy x y) :=
  (maskCN_XYN ..).trans rfl
theorem TableMatch.or (x y : RegIdx) : TableMatch.Statement (.or x y) :=
  (maskCN_XYN ..).trans rfl
theorem TableMatch.and (x y : RegIdx) : TableMatch.Statement (.and x y) :=
  (maskCN_XYN ..).trans rfl
theorem TableMatch.xor (x y : RegIdx) : TableMatch.Statement (.xor x y) :=
  (maskCN_XYN ..).trans rfl
theorem TableMatch.addVxVy (x y : RegIdx) : TableMatch.Statement (.addVxVy x y) :=
  (maskCN_XYN ..).trans rfl
theorem TableMatch.sub (x y : RegIdx) : TableMatch.Statement (.sub x y) :=
  (maskCN_XYN ..).trans rfl
theorem TableMatch.shr (x y : RegIdx) : TableMatch.Statement (.shr x y) :=
  (maskCN_XYN ..).trans rfl
theorem TableMatch.subn (x y : RegIdx) : TableMatch.Statement (.subn x y) :=
  (maskCN_XYN ..).trans rfl
theorem TableMatch.shl (x y : RegIdx) : TableMatch.Statement (.shl x y) :=
  (maskCN_XYN ..).trans rfl
theorem TableMatch.aluUnknown8 (x y : RegIdx) : TableMatch.Statement (.aluUnknown8 x y) :=
  (maskCN_XYN ..).trans rfl
theorem TableMatch.aluUnknown9 (x y : RegIdx) : TableMatch.Statement (.aluUnknown9 x y) :=
  (maskCN_XYN ..).trans rfl
theorem TableMatch.aluUnknownA (x y : RegIdx) : TableMatch.Statement (.aluUnknownA x y) :=
  (maskCN_XYN ..).trans rfl
theorem TableMatch.aluUnknownB (x y : RegIdx) : TableMatch.Statement (.aluUnknownB x y) :=
  (maskCN_XYN ..).trans rfl
theorem TableMatch.aluUnknownC (x y : RegIdx) : TableMatch.Statement (.aluUnknownC x y) :=
  (maskCN_XYN ..).trans rfl
theorem TableMatch.aluUnknownD (x y : RegIdx) : TableMatch.Statement (.aluUnknownD x y) :=
  (maskCN_XYN ..).trans rfl
theorem TableMatch.aluUnknownF (x y : RegIdx) : TableMatch.Statement (.aluUnknownF x y) :=
  (maskCN_XYN ..).trans rfl
theorem TableMatch.sneVxVy (x y : RegIdx) : TableMatch.Statement (.sneVxVy x y) :=
  (maskCN_XYN ..).trans rfl
theorem TableMatch.ldI (nnn : Addr12) : TableMatch.Statement (.ldI nnn) :=
  (maskC_NNN ..).trans rfl
theorem TableMatch.jpV0 (nnn : Addr12) : TableMatch.Statement (.jpV0 nnn) :=
  (maskC_NNN ..).trans rfl
theorem TableMatch.rnd (x : RegIdx) (nn : Byte) : TableMatch.Statement (.rnd x nn) :=
  (maskC_XNN ..).trans rfl
theorem TableMatch.drw (x y : RegIdx) (n : Nibble) : TableMatch.Statement (.drw x y n) :=
  (maskC_XYN ..).trans rfl
theorem TableMatch.skp (x : RegIdx) : TableMatch.Statement (.skp x) :=
  (maskCNN_XNN ..).trans rfl
theorem TableMatch.sknp (x : RegIdx) : TableMatch.Statement (.sknp x) :=
  (maskCNN_XNN ..).trans rfl
theorem TableMatch.ldVxDt (x : RegIdx) : TableMatch.Statement (.ldVxDt x) :=
  (maskCNN_XNN ..).trans rfl
theorem TableMatch.ldVxK (x : RegIdx) : TableMatch.Statement (.ldVxK x) :=
  (maskCNN_XNN ..).trans rfl
theorem TableMatch.ldDtVx (x : RegIdx) : TableMatch.Statement (.ldDtVx x) :=
  (maskCNN_XNN ..).trans rfl
theorem TableMatch.ldStVx (x : RegIdx) : TableMatch.Statement (.ldStVx x) :=
  (maskCNN_XNN ..).trans rfl
theorem TableMatch.addIVx (x : RegIdx) : TableMatch.Statement (.addIVx x) :=
  (maskCNN_XNN ..).trans rfl
theorem TableMatch.ldFVx (x : RegIdx) : TableMatch.Statement (.ldFVx x) :=
  (maskCNN_XNN ..).trans rfl
theorem TableMatch.ldBVx (x : RegIdx) : TableMatch.Statement (.ldBVx x) :=
  (maskCNN_XNN ..).trans rfl
theorem TableMatch.ldMemIVx (x : RegIdx) : TableMatch.Statement (.ldMemIVx x) :=
  (maskCNN_XNN ..).trans rfl
theorem TableMatch.ldVxMemI (x : RegIdx) : TableMatch.Statement (.ldVxMemI x) :=
  (maskCNN_XNN ..).trans rfl

end Sys2Proof.Laws
end

