-- ==== Sys2Proof/Laws/Sprite.lean ====
section
/-! SUPPORT. What DrawSprite does to every pixel, and its collision flag (R273, R277): no pixel is toggled twice. -/

namespace Sys2Proof.Machine

/-- A set bit of one row, at one of the listed columns, lands on the pixel. -/
def RowCovers (x y : Nat) (row : Byte) (cs : List Nat) (px py : Nat) : Prop :=
  ∃ c ∈ cs, spriteBit row c = true ∧ px % 64 = (x + c) % 64 ∧ py % 32 = y % 32

/-- A set bit of the sprite lands on the pixel. -/
def SpriteCovers (x y : Nat) (rows : List Byte) (px py : Nat) : Prop :=
  ∃ r, r < rows.length ∧ ∃ c, c < 8 ∧ spriteBit (rows.getD r 0) c = true ∧ px % 64 = (x + c) % 64 ∧ py % 32 = (y + r) % 32

/-- What compositing over a set of pixels does: those change over, and the flag rises if one of them was On. -/
structure Composited (covers : Nat → Nat → Prop) (acc res : Display × Bool) : Prop where
  pixel : ∀ px py, res.1.pixel px py = true ↔ ¬ (acc.1.pixel px py = true ↔ covers px py)
  hit : res.2 = true ↔ acc.2 = true ∨ ∃ px py, covers px py ∧ acc.1.pixel px py = true

theorem Composited.nothing (covers : Nat → Nat → Prop) (h : ∀ px py, ¬ covers px py) (acc : Display × Bool) :
    Composited covers acc acc where
  pixel := by simp [h]
  hit := by simp [h]

/-- Two compositings over sets that do not meet make one over their union. -/
theorem Composited.comp {p q u : Nat → Nat → Prop} {a b c : Display × Bool} (h1 : Composited p a b) (h2 : Composited q b c)
    (hu : ∀ px py, u px py ↔ p px py ∨ q px py) (hd : ∀ px py, p px py → ¬ q px py) : Composited u a c where
  pixel px py := by
    have h3 := h1.pixel px py
    have h4 := h2.pixel px py
    have h5 := hu px py
    have h6 := hd px py
    by_cases hp : p px py <;> by_cases hq : q px py <;> simp_all
  hit := by
    rw [h2.hit, h1.hit]
    constructor
    · rintro ((h | ⟨px, py, h, h'⟩) | ⟨px, py, h, h'⟩)
      · exact .inl h
      · exact .inr ⟨px, py, (hu px py).2 (.inl h), h'⟩
      · refine .inr ⟨px, py, (hu px py).2 (.inr h), ?_⟩
        have h3 := h1.pixel px py
        have h4 : ¬ p px py := fun hp => hd px py hp h
        simp_all
    · rintro (h | ⟨px, py, h, h'⟩)
      · exact .inl (.inl h)
      · rcases (hu px py).1 h with h | h
        · exact .inl (.inr ⟨px, py, h, h'⟩)
        · refine .inr ⟨px, py, h, ?_⟩
          have h3 := h1.pixel px py
          have h4 : ¬ p px py := fun hp => hd px py hp h
          simp_all

/-- One toggle composites over one pixel. -/
theorem Composited.toggle (acc : Display × Bool) (x y : Nat) :
    Composited (fun px py => px % 64 = x % 64 ∧ py % 32 = y % 32) acc
      ((acc.1.togglePixel x y).1, acc.2 || (acc.1.togglePixel x y).2) where
  pixel px py := by
    rw [Display.pixel_togglePixel]
    by_cases h : px % 64 = x % 64 ∧ py % 32 = y % 32
    · cases hp : acc.1.pixel px py <;> simp [h]
    · simp [h]
  hit := by
    simp only [Display.togglePixel_was, Bool.or_eq_true]
    constructor
    · rintro (h | h)
      · exact .inl h
      · exact .inr ⟨x, y, ⟨rfl, rfl⟩, h⟩
    · rintro (h | ⟨px, py, ⟨h1, h2⟩, h3⟩)
      · exact .inl h
      · right
        rw [← Display.pixel_wrap, h1, h2, Display.pixel_wrap] at h3
        exact h3

/-- One row over distinct columns below 64: exactly its covered pixels change (R273, R277). -/
theorem Display.drawColumns_spec (x y : Nat) (row : Byte) (cs : List Nat) (hn : cs.Nodup) (hc : ∀ c ∈ cs, c < 64)
    (acc : Display × Bool) : Composited (RowCovers x y row cs) acc (Display.drawColumns x y row cs acc) := by
  induction cs generalizing acc with
  | nil => exact .nothing _ (by simp [RowCovers]) _
  | cons c cs ih =>
    obtain ⟨h1, h2⟩ := List.nodup_cons.1 hn
    have hc' : ∀ c ∈ cs, c < 64 := fun d hd => hc d (by simp [hd])
    rw [Display.drawColumns]
    split
    · rename_i hb
      refine (Composited.toggle acc (x + c) y).comp (ih h2 hc' _) (fun px py => ?_) (fun px py => ?_)
      · simp [RowCovers, hb]
      · rintro ⟨h3, _⟩ ⟨d, hd, _, h4, _⟩
        have h5 := hc c (by simp)
        have h6 := hc' d hd
        have : d = c := by omega
        exact h1 (this ▸ hd)
    · rename_i hb
      have : RowCovers x y row (c :: cs) = RowCovers x y row cs := by
        funext px py
        simp [RowCovers, hb]
      rw [this]
      exact ih h2 hc' acc

/-- The rows from y, at most 32 of them: exactly the covered pixels change (R273, R277). -/
theorem Display.drawRows_spec (x : Nat) (rows : List Byte) (y : Nat) (hl : rows.length ≤ 32) (acc : Display × Bool) :
    Composited (SpriteCovers x y rows) acc (Display.drawRows x y rows acc) := by
  induction rows generalizing y acc with
  | nil => exact .nothing _ (by simp [SpriteCovers]) _
  | cons row rows ih =>
    simp only [List.length_cons] at hl
    rw [Display.drawRows]
    refine (Display.drawColumns_spec x y row (List.range 8) List.nodup_range (by simp; omega) acc).comp
      (ih (y + 1) (by omega) _) (fun px py => ?_) (fun px py => ?_)
    · constructor
      · rintro ⟨r, hr, c, hc, h1, h2, h3⟩
        cases r with
        | zero => exact .inl ⟨c, by simpa using hc, by simpa using h1, h2, by simpa using h3⟩
        | succ r =>
          refine .inr ⟨r, by simpa using hr, c, hc, by simpa using h1, h2, ?_⟩
          rw [h3]
          congr 1
          omega
      · rintro (⟨c, hc, h1, h2, h3⟩ | ⟨r, hr, c, hc, h1, h2, h3⟩)
        · exact ⟨0, by simp, c, by simpa using hc, by simpa using h1, h2, by simpa using h3⟩
        · refine ⟨r + 1, by simpa using hr, c, hc, by simpa using h1, h2, ?_⟩
          rw [h3]
          congr 1
          omega
    · rintro ⟨_, _, _, _, h1⟩ ⟨r, hr, _, _, _, _, h2⟩
      omega

/-- DrawSprite of at most 32 rows: exactly the covered pixels change over, and the flag is 1 exactly when one of them was On. -/
theorem Display.drawSprite_spec (d : Display) (x y : Nat) (rows : List Byte) (hl : rows.length ≤ 32) :
    Composited (SpriteCovers x y rows) (d, false) (d.drawSprite x y rows) :=
  Display.drawRows_spec x rows y hl (d, false)

end Sys2Proof.Machine
end

