-- ==== Sys2Proof/Laws/Step.lean ====
section
/-! SUPPORT. What one step can do, said once: nothing (halted), a fetch fault, a decode fault, or the decoded instruction. -/

namespace Sys2Proof.Machine

theorem step_halted (s : State) (h : s.halt ≠ none) : step s = .next s := by
  unfold step State.cycle
  cases hh : s.halt with
  | none => exact absurd hh h
  | some r => rfl

theorem step_fetch_fault (s : State) (h : s.halt = none) (hp : 4096 ≤ s.pc.toNat + 1) :
    step s = .next (s.takeFault none (.memoryAddress (max s.pc.toNat 4096))) := by
  unfold step State.cycle
  rw [h, State.fetchOpcode_eq, if_neg (by omega)]

/-- The opcode at PC, high byte first. -/
def State.opcodeAt (s : State) : Word := wordOfBytes (s.mem.byte s.pc.toNat) (s.mem.byte (s.pc.toNat + 1))

theorem step_fetched (s : State) (h : s.halt = none) (hp : s.pc.toNat + 1 < 4096) :
    step s = s.runDecoded (decode s.opcodeAt) := by
  unfold step State.cycle
  rw [h, State.fetchOpcode_eq, if_pos hp]
  rfl

/-- Every step is one of these four. -/
theorem step_cases (s : State) :
    (s.halt ≠ none ∧ step s = .next s) ∨
    (s.halt = none ∧ 4096 ≤ s.pc.toNat + 1 ∧ step s = .next (s.takeFault none (.memoryAddress (max s.pc.toNat 4096)))) ∨
    (s.halt = none ∧ s.pc.toNat + 1 < 4096 ∧ ∃ op, decode s.opcodeAt = .unknown op ∧
      step s = .next (s.takeFault (some op) .decodeFailure)) ∨
    (s.halt = none ∧ s.pc.toNat + 1 < 4096 ∧ ∃ i, decode s.opcodeAt = .known i ∧ step s = exec i s) := by
  by_cases h : s.halt = none
  · by_cases hp : s.pc.toNat + 1 < 4096
    · rw [step_fetched s h hp]
      cases hd : decode s.opcodeAt with
      | known i => exact .inr (.inr (.inr ⟨h, hp, i, rfl, rfl⟩))
      | unknown op => exact .inr (.inr (.inl ⟨h, hp, op, rfl, rfl⟩))
    · exact .inr (.inl ⟨h, by omega, step_fetch_fault s h (by omega)⟩)
  · exact .inl ⟨h, step_halted s h⟩

end Sys2Proof.Machine
end

