-- ==== Sys2Proof/Tests/Slice0.lean ====
section
/-! SUPPORT. Tests of one step each. Expected results come from the spec: the decode table and encodings of 30_encoding.md, the
examples of the instruction rules, and the vectors of 95_test_vectors.md (named beside each test). -/

namespace Sys2Proof.Tests

open Sys2Proof.Machine

/-- The next state of an outcome. -/
def nextOf : Host.Outcome State Fault Refusal → Option State
  | .next t => some t
  | .fault _ | .refused _ => none

/-- One step of s with the opcode placed where it is fetched. -/
def run (op : Nat) (s : State) : Option State := nextOf (step (s.withFetchWord 16 op))

/-- The reset state with some registers set. -/
def regs (l : List (RegIdx × Byte)) : State := l.foldl (fun s p => s.setV p.1 p.2) State.reset

/-- The state with bytes stored from an address. -/
def withBytes (s : State) (a : Nat) (bs : List Byte) : State := s.setMem (s.mem.putBytes a bs)

/-- The state with some keys held. -/
def withKeys (s : State) (ks : List Nat) : State := ks.foldl (fun s k => (setKeyState k true s).1) s

/-- The state with one pixel On. -/
def withPixel (s : State) (x y : Nat) : State := s.setDisp (s.disp.setPixel x y true)

/-- A fault record with pc = 0x200. -/
def rec200 (k : FaultKind) (op : Word) (addr : Option Nat) (value : Option Byte) : FaultRecord :=
  { kind := k, pc := 0x200, opcode := some op, addr := addr, value := value }

/-! ### Well-formedness: the check refuses an ill-formed term -/

theorem test_wellFormed_refuses_sys_0E0 : (Instr.sys 0x0E0).wellFormed = false := by decide
theorem test_wellFormed_refuses_sys_0EE : (Instr.sys 0x0EE).wellFormed = false := by decide
theorem test_wellFormed_takes_sys_0E1 : (Instr.sys 0x0E1).wellFormed = true := by decide

/-! ### Decoding: words written out from the encodings (R103, R104; 95 L1, L2) -/

theorem test_decode_class0 : decode 0x00E0 = .known .cls ∧ decode 0x00EE = .known .ret ∧ decode 0x0000 = .known (.sys 0x000) ∧
    decode 0x00E1 = .known (.sys 0x0E1) ∧ decode 0x0FFF = .known (.sys 0xFFF) := by decide
theorem test_decode_jumps : decode 0x1234 = .known (.jp 0x234) ∧ decode 0x2210 = .known (.call 0x210) ∧
    decode 0xB123 = .known (.jpV0 0x123) := by decide
theorem test_decode_skips : decode 0x3342 = .known (.seVxNn 0x3 0x42) ∧ decode 0x4A7B = .known (.sneVxNn 0xA 0x7B) ∧
    decode 0x5120 = .known (.seVxVy 0x1 0x2) ∧ decode 0x9AB0 = .known (.sneVxVy 0xA 0xB) ∧
    decode 0xE59E = .known (.skp 0x5) ∧ decode 0xE5A1 = .known (.sknp 0x5) := by decide
theorem test_decode_immediates : decode 0x6A7B = .known (.ldVxNn 0xA 0x7B) ∧ decode 0x7F01 = .known (.addVxNn 0xF 0x01) ∧
    decode 0xA300 = .known (.ldI 0x300) ∧ decode 0xC30F = .known (.rnd 0x3 0x0F) ∧
    decode 0xD125 = .known (.drw 0x1 0x2 0x5) := by decide
theorem test_decode_class8 : decode 0x8340 = .known (.ldVxVy 0x3 0x4) ∧ decode 0x8341 = .known (.or 0x3 0x4) ∧
    decode 0x8342 = .known (.and 0x3 0x4) ∧ decode 0x8343 = .known (.xor 0x3 0x4) ∧ decode 0x8AB4 = .known (.addVxVy 0xA 0xB) ∧
    decode 0x8015 = .known (.sub 0x0 0x1) ∧ decode 0x8216 = .known (.shr 0x2 0x1) ∧ decode 0x8017 = .known (.subn 0x0 0x1) ∧
    decode 0x821E = .known (.shl 0x2 0x1) := by decide
theorem test_decode_unknown_alu : decode 0x8128 = .known (.aluUnknown8 0x1 0x2) ∧ decode 0x8129 = .known (.aluUnknown9 0x1 0x2) ∧
    decode 0x812A = .known (.aluUnknownA 0x1 0x2) ∧ decode 0x812B = .known (.aluUnknownB 0x1 0x2) ∧
    decode 0x812C = .known (.aluUnknownC 0x1 0x2) ∧ decode 0x812D = .known (.aluUnknownD 0x1 0x2) ∧
    decode 0x800F = .known (.aluUnknownF 0x0 0x0) := by decide
theorem test_decode_classF : decode 0xF307 = .known (.ldVxDt 0x3) ∧ decode 0xF00A = .known (.ldVxK 0x0) ∧
    decode 0xF115 = .known (.ldDtVx 0x1) ∧ decode 0xF118 = .known (.ldStVx 0x1) ∧ decode 0xF21E = .known (.addIVx 0x2) ∧
    decode 0xF529 = .known (.ldFVx 0x5) ∧ decode 0xF333 = .known (.ldBVx 0x3) ∧ decode 0xF355 = .known (.ldMemIVx 0x3) ∧
    decode 0xFF65 = .known (.ldVxMemI 0xF) := by decide
theorem test_decode_unknown : decode 0x5121 = .unknown 0x5121 ∧ decode 0x9001 = .unknown 0x9001 ∧
    decode 0xE09F = .unknown 0xE09F ∧ decode 0xF000 = .unknown 0xF000 ∧ decode 0xFFFF = .unknown 0xFFFF := by decide
theorem test_decodeBytes_big_endian : decodeBytes 0x12 0x34 = .known (.jp 0x234) := by decide
theorem test_decodeTableWord : decodeTableWord 16 0x8014 = some (.addVxVy 0x0 0x1) ∧ decodeTableWord 16 0x5001 = none := by decide

/-! ### Control flow (R160 to R164; 95 L2) -/

theorem test_jp : (run 0x1234 State.reset).map (·.pc) = some 0x0234 := by decide
theorem test_jp_self_parks : (run 0x1200 State.reset).map (·.pc) = some 0x0200 := by decide
theorem test_call : (run 0x2210 (State.reset.setPc 0x204)).map
    (fun t => (t.pc, t.sp, t.mem.byte 0xEFE, t.mem.byte 0xEFF)) = some (0x0210, 0x0EFD, 0x02, 0x06) := by decide
theorem test_call_full : (run 0x2400 (State.reset.setSp 0x0EDF)).map (fun t => (t.halt, t.pc, t.sp)) =
    some (some (rec200 .stackOverflow 0x2400 none none), 0x200, 0x0EDF) := by decide
theorem test_ret : (run 0x00EE ((withBytes State.reset 0xEFE [0x02, 0x06]).setSp 0x0EFD)).map
    (fun t => (t.pc, t.sp, t.mem.byte 0xEFE, t.mem.byte 0xEFF)) = some (0x0206, 0x0EFF, 0x02, 0x06) := by decide
theorem test_ret_empty : (run 0x00EE State.reset).map (fun t => (t.halt, t.pc, t.sp)) =
    some (some (rec200 .stackUnderflow 0x00EE none none), 0x200, 0x0EFF) := by decide
theorem test_sys : (run 0x0000 State.reset).map (fun t => (t.halt, t.pc)) =
    some (some (rec200 .unsupportedFeature 0x0000 none none), 0x200) := by decide
theorem test_jpV0 : (run 0xB300 (regs [(0x0, 0x10)])).map (·.pc) = some 0x0310 := by decide
theorem test_jpV0_not_masked : (run 0xBFFF (regs [(0x0, 0xFF), (0xF, 0x01)])).map (·.pc) = some 0x10FE := by decide

/-! ### Skips (R181 to R186; 95 L2) -/

theorem test_seVxNn : (run 0x3342 (regs [(0x3, 0x42)])).map (·.pc) = some 0x204 := by decide
theorem test_seVxNn_fails : (run 0x3342 (regs [(0x3, 0x41)])).map (·.pc) = some 0x202 := by decide
theorem test_sneVxNn : (run 0x4342 State.reset).map (·.pc) = some 0x204 := by decide
theorem test_sneVxNn_fails : (run 0x4342 (regs [(0x3, 0x42)])).map (·.pc) = some 0x202 := by decide
theorem test_seVxVy : (run 0x5120 (regs [(0x1, 0x07), (0x2, 0x07)])).map (·.pc) = some 0x204 := by decide
theorem test_seVxVy_fails : (run 0x5120 (regs [(0x1, 0x07)])).map (·.pc) = some 0x202 := by decide
theorem test_sneVxVy : (run 0x9120 (regs [(0x1, 0x07), (0x2, 0x08)])).map (·.pc) = some 0x204 := by decide
theorem test_sneVxVy_self : (run 0x9110 (regs [(0x1, 0x07)])).map (·.pc) = some 0x202 := by decide
theorem test_skp : (run 0xE59E (withKeys (regs [(0x5, 0x0A)]) [0xA])).map (·.pc) = some 0x204 := by decide
theorem test_skp_key_index : (run 0xE09E (regs [(0x0, 0x10)])).map (fun t => (t.halt, t.pc)) =
    some (some (rec200 .keyIndex 0xE09E none (some 0x10)), 0x200) := by decide
theorem test_sknp : (run 0xE5A1 (regs [(0x5, 0x0A)])).map (·.pc) = some 0x204 := by decide
theorem test_sknp_held : (run 0xE5A1 (withKeys (regs [(0x5, 0x0A)]) [0xA])).map (·.pc) = some 0x202 := by decide

/-! ### ALU (R202 to R214; 95 L1, L2) -/

theorem test_ldVxNn : (run 0x6A7B State.reset).map (fun t => (t.V 0xA, t.pc)) = some (0x7B, 0x202) := by decide
theorem test_addVxNn_no_flag : (run 0x70FF (regs [(0x0, 0x02), (0xF, 0x07)])).map (fun t => (t.V 0x0, t.V 0xF)) =
    some (0x01, 0x07) := by decide
theorem test_ldVxVy : (run 0x8010 (regs [(0x1, 0xAB)])).map (fun t => (t.V 0x0, t.V 0x1)) = some (0xAB, 0xAB) := by decide
theorem test_or : (run 0x8011 (regs [(0x0, 0xF0), (0x1, 0x0F), (0xF, 0x55)])).map (fun t => (t.V 0x0, t.V 0xF)) =
    some (0xFF, 0x55) := by decide
theorem test_and : (run 0x8012 (regs [(0x0, 0xF0), (0x1, 0x3C)])).map (fun t => (t.V 0x0, t.V 0x1)) = some (0x30, 0x3C) := by
  decide
theorem test_xor : (run 0x8343 (regs [(0x3, 0xF0), (0x4, 0x3C)])).map (·.V 0x3) = some 0xCC := by decide
theorem test_addVxVy : (run 0x8014 (regs [(0x0, 0xFF), (0x1, 0x01)])).map (fun t => (t.V 0x0, t.V 0xF)) = some (0x00, 0x01) := by
  decide
theorem test_addVxVy_into_VF : (run 0x8F04 (regs [(0x0, 0x02), (0xF, 0x01)])).map (fun t => (t.V 0x0, t.V 0xF)) =
    some (0x02, 0x00) := by decide
theorem test_sub : (run 0x8015 (regs [(0x0, 0x03), (0x1, 0x05)])).map (fun t => (t.V 0x0, t.V 0xF)) = some (0xFE, 0x00) := by
  decide
theorem test_sub_equal : (run 0x8015 (regs [(0x0, 0x04), (0x1, 0x04)])).map (fun t => (t.V 0x0, t.V 0xF)) = some (0x00, 0x01) := by
  decide
theorem test_shr : (run 0x8216 (regs [(0x1, 0x80), (0x2, 0x05)])).map (fun t => (t.V 0x2, t.V 0xF)) = some (0x02, 0x01) := by
  decide
theorem test_shr_into_VF : (run 0x8F06 (regs [(0xF, 0x03)])).map (·.V 0xF) = some 0x01 := by decide
theorem test_subn : (run 0x8017 (regs [(0x0, 0x05), (0x1, 0x03)])).map (fun t => (t.V 0x0, t.V 0xF)) = some (0xFE, 0x00) := by
  decide
theorem test_subn_no_borrow : (run 0x8017 (regs [(0x0, 0x03), (0x1, 0x05)])).map (fun t => (t.V 0x0, t.V 0xF)) =
    some (0x02, 0x01) := by decide
theorem test_shl : (run 0x821E (regs [(0x2, 0x81)])).map (fun t => (t.V 0x2, t.V 0xF)) = some (0x02, 0x01) := by decide
theorem test_shl_no_flag : (run 0x801E (regs [(0x0, 0x7F)])).map (fun t => (t.V 0x0, t.V 0xF)) = some (0xFE, 0x00) := by decide
theorem test_aluUnknown8 : (run 0x8128 State.reset).map (fun t => (t.halt, t.pc)) =
    some (some (rec200 .unknownAluSubOpcode 0x8128 none none), 0x200) := by decide
theorem test_aluUnknownF : (run 0x800F State.reset).map (fun t => (t.halt, t.pc)) =
    some (some (rec200 .unknownAluSubOpcode 0x800F none none), 0x200) := by decide
theorem test_rnd_masks_the_draw : (run 0xC00F State.reset).map (·.V 0x0) = some (Config.draw 0 &&& 0x0F) := rfl
theorem test_rnd_of_given_draw : (State.reset.setMaskedDraw 0x0 0x0F 0xA5).V 0x0 = 0x05 := by decide

/-! ### Address register, BCD, dump and load (R240 to R245; 95 L2) -/

theorem test_ldI : (run 0xA300 State.reset).map (·.iReg) = some 0x0300 := by decide
theorem test_addIVx_wraps : (run 0xF01E ((regs [(0x0, 0x02), (0xF, 0x55)]).setI 0xFFFF)).map (fun t => (t.iReg, t.V 0xF)) =
    some (0x0001, 0x55) := by decide
theorem test_addIVx_past_memory : (run 0xF01E ((regs [(0x0, 0x01)]).setI 0x0FFF)).map (fun t => (t.iReg, t.halt)) =
    some (0x1000, none) := by decide
theorem test_ldFVx : (run 0xF029 (regs [(0x0, 0x0A)])).map (·.iReg) = some 0x0032 := by decide
theorem test_ldFVx_not_masked : (run 0xF029 (regs [(0x0, 0xFF)])).map (·.iReg) = some 0x04FB := by decide
theorem test_ldBVx : (run 0xF333 ((regs [(0x3, 128)]).setI 0x300)).map
    (fun t => (t.mem.byte 0x300, t.mem.byte 0x301, t.mem.byte 0x302, t.iReg)) = some (1, 2, 8, 0x300) := by decide
theorem test_ldBVx_out_of_range : (run 0xF333 ((regs [(0x3, 255)]).setI 0x0FFE)).map (fun t => (t.halt, t.mem.byte 0xFFE)) =
    some (some (rec200 .memoryAddress 0xF333 (some 0x1000) none), 0) := by decide
theorem test_ldMemIVx : (run 0xF355 ((regs [(0x0, 1), (0x1, 2), (0x2, 3), (0x3, 4), (0x4, 5)]).setI 0x0FFC)).map
    (fun t => (t.mem.byte 0xFFC, t.mem.byte 0xFFD, t.mem.byte 0xFFE, t.mem.byte 0xFFF, t.iReg)) = some (1, 2, 3, 4, 0xFFC) := by
  decide
theorem test_ldMemIVx_out_of_range : (run 0xF355 ((regs [(0x0, 1)]).setI 0x0FFD)).map (fun t => (t.halt, t.mem.byte 0xFFD)) =
    some (some (rec200 .memoryAddress 0xF355 (some 0x1000) none), 0) := by decide
theorem test_ldVxMemI : (run 0xF165 ((withBytes State.reset 0x300 [0x10, 0x11, 0x12]).setI 0x300)).map
    (fun t => (t.V 0x0, t.V 0x1, t.V 0x2, t.iReg)) = some (0x10, 0x11, 0x00, 0x300) := by decide
theorem test_ldVxMemI_out_of_range : (run 0xF065 (State.reset.setI 0x1005)).map (·.halt) =
    some (some (rec200 .memoryAddress 0xF065 (some 0x1005) none)) := by decide

/-! ### Display (R274, R275; 95 L1 S15, L2) -/

theorem test_cls : (run 0x00E0 (withPixel State.reset 3 1)).map (fun t => (t.disp.pixel 3 1, t.pc)) = some (false, 0x202) := by
  decide
theorem test_drw_wraps_and_collides :
    (run 0xD011 (withPixel ((withBytes (regs [(0x0, 100), (0x1, 40)]) 0x300 [0xC0]).setI 0x300) 37 8)).map
      (fun t => (t.disp.pixel 36 8, t.disp.pixel 37 8, t.V 0xF)) = some (true, false, 1) := by decide
theorem test_drw_out_of_range : (run 0xD003 ((regs [(0xF, 7)]).setI 0x0FFE)).map (fun t => (t.halt, t.V 0xF)) =
    some (some (rec200 .memoryAddress 0xD003 (some 0x1000) none), 7) := by decide

/-! ### Timers and keys (R302 to R306; 95 L2) -/

theorem test_ldVxDt : (run 0xF307 (State.reset.setDt 0x3C)).map (fun t => (t.V 0x3, t.dt)) = some (0x3C, 0x3C) := by decide
theorem test_ldVxK_waits : (run 0xF50A State.reset).map (fun t => (t.pc, t.V 0x5, t.halt)) = some (0x200, 0, none) := by decide
theorem test_ldVxK_lowest : (run 0xF50A (withKeys State.reset [9, 3])).map (fun t => (t.pc, t.V 0x5)) = some (0x202, 3) := by
  decide
theorem test_ldDtVx : (run 0xF115 (regs [(0x1, 0x07)])).map (fun t => (t.dt, t.st)) = some (0x07, 0) := by decide
theorem test_ldStVx : (run 0xF118 (regs [(0x1, 0x02)])).map (fun t => (t.st, t.dt, soundActive t)) = some (0x02, 0, true) := by
  decide

/-! ### The step (R140 to R145; 95 L2) -/

theorem test_unknown_opcode : (run 0x5121 State.reset).map (fun t => (t.halt, t.pc)) =
    some (some (rec200 .decodeFailure 0x5121 none none), 0x200) := by decide
theorem test_fetch_across_the_end : (nextOf (step (State.reset.setPc 0x0FFF))).map (·.halt) =
    some (some { kind := .memoryAddress, pc := 0x0FFF, opcode := none, addr := some 0x1000, value := none }) := by decide
theorem test_fetch_past_the_end : (nextOf (step (State.reset.setPc 0x10FE))).map (·.halt) =
    some (some { kind := .memoryAddress, pc := 0x10FE, opcode := none, addr := some 0x10FE, value := none }) := by decide
theorem test_store_then_fetch : (nextOf (step (withBytes State.reset 0x200 [0x12, 0x0A]))).map (·.pc) = some 0x20A := by decide

/-! ### The host's calls (R330 to R332, R370 to R373, R276; 95 L1, L2) -/

theorem test_tick : (fun t => (t.dt, t.st)) (tickTimers ((State.reset.setDt 1).setSt 2)) = ((0, 1) : Byte × Byte) := by decide
theorem test_tick_no_underflow : (fun t => (t.dt, t.st)) (tickTimers State.reset) = ((0, 0) : Byte × Byte) := by decide
theorem test_load_pads : (fun t => (t.1.mem.byte 0x200, t.1.mem.byte 0x202, t.1.mem.byte 0x203, t.2))
    (loadProgram [0x12, 0x00, 0x60] State.reset) = (0x12, 0x60, 0x00, .ok) := by decide
theorem test_load_too_large : (loadProgram (List.replicate 3585 0x60) State.reset).2 = .hostErr .programTooLarge := by
  decide +kernel
theorem test_set_key_16 : setKeyState 16 true State.reset = (State.reset, .hostErr .keyIndexOutOfRange) := by decide +kernel
theorem test_flat_view : (withPixel State.reset 3 1).disp.flat[67]? = some 1 ∧ (withPixel State.reset 3 1).disp.flat[66]? = some 0 := by
  decide +kernel
theorem test_reset_font : State.reset.mem.byte 0x000 = 0xF0 ∧ State.reset.mem.byte 0x04F = 0x80 ∧
    State.reset.mem.byte 0x050 = 0 := by decide
theorem test_step_result_of_fault : (hostCall .step State.reset).2 = .err (rec200 .unsupportedFeature 0x0000 none none) := by
  decide +kernel

/-! ### Witnesses: for every statement with hypotheses, states and operands that meet them, at the ends of their ranges -/

/-- The reset state at PC with the bytes there. -/
def stateAt (pc : Word) (bs : List Byte) : State := withBytes (State.reset.setPc pc) pc.toNat bs

/-- A fault record of a fetch at 0xFFF. -/
def recFetch : FaultRecord :=
  { kind := .memoryAddress, pc := 0x0FFF, opcode := none, addr := some 0x1000, value := none }

theorem reset_inv : Inv State.reset :=
  ⟨by decide, ⟨0, by decide, by decide⟩, fun r h => by simp [State.reset] at h⟩

theorem test_stack_depth_in_its_range : 1 ≤ Params.stackDepth ∧ Params.stackDepth ≤ 64 := by decide

theorem witness_DecodeOfEncode : (Instr.sys 0x0E1).wellFormed = true ∧ (Instr.drw 0xF 0x0 0xF).wellFormed = true := by decide
theorem witness_EncodeOfDecode : decode 0x0FFF = .known (.sys 0xFFF) ∧ decode 0xFF65 = .known (.ldVxMemI 0xF) := by decide
theorem witness_UnknownOpcodesExactly : decode 0x5001 = .unknown 0x5001 ∧ decode 0x900F = .unknown 0x900F ∧
    decode 0xE09D = .unknown 0xE09D ∧ decode 0xF064 = .unknown 0xF064 := by decide
theorem witness_EncodingsOfEveryRule : (0x0E1 : Addr12) ≠ 0x0E0 ∧ (0x0E1 : Addr12) ≠ 0x0EE := by decide
theorem witness_StepRunsDecodedInstruction : Runs (stateAt 0x0FFE [0x12, 0x34]) (.jp 0x234) ∧ Runs State.reset (.sys 0x000) :=
  ⟨⟨rfl, by decide, by decide⟩, ⟨rfl, by decide, by decide⟩⟩
theorem witness_UnknownOpcodeFaults : (stateAt 0x0FFE [0x51, 0x21]).halt = none ∧ (stateAt 0x0FFE [0x51, 0x21]).pc.toNat + 1 < 4096 ∧
    decodeBytes ((stateAt 0x0FFE [0x51, 0x21]).mem.byte 0x0FFE) ((stateAt 0x0FFE [0x51, 0x21]).mem.byte 0x0FFF) = .unknown 0x5121 := by
  decide
theorem witness_FetchPastTheEndFaults : (State.reset.setPc 0x0FFF).halt = none ∧ 0xFFF ≤ (State.reset.setPc 0x0FFF).pc.toNat ∧
    0xFFF ≤ (State.reset.setPc 0xFFFF).pc.toNat := by decide
theorem witness_EveryStepAnswersNext : (∃ t, step State.reset = .next t ∧ t.halt ≠ none) ∧
    ∃ t, step (stateAt 0x200 [0x12, 0x34]) = .next t ∧ t.halt = none := ⟨⟨_, rfl, by decide⟩, ⟨_, rfl, by decide⟩⟩
theorem witness_HaltIsSticky : (State.reset.setHalt (some recFetch)).halt = some recFetch := rfl
theorem witness_FaultingStepCommitsNothing : State.reset.halt = none ∧
    (∃ t r, step State.reset = .next t ∧ t.halt = some r) ∧
    (State.reset.setPc 0x0FFF).halt = none ∧ ∃ t r, step (State.reset.setPc 0x0FFF) = .next t ∧ t.halt = some r :=
  ⟨rfl, ⟨_, _, rfl, rfl⟩, rfl, ⟨_, _, rfl, rfl⟩⟩
theorem witness_StepKeepsInvariant : Inv State.reset ∧ ∃ t, step State.reset = .next t := ⟨reset_inv, _, rfl⟩
theorem witness_StepKeepsInvariant_full_stack : Inv (State.reset.setSp 0x0EDF) :=
  ⟨by decide, ⟨16, by decide, by decide⟩, fun r h => by simp [State.reset, State.setSp] at h⟩
theorem witness_HostCallsKeepInvariant : Inv State.reset := reset_inv

theorem witness_TimersAndKeyLatch :
    (∃ t, step (stateAt 0x200 [0xF1, 0x15] |>.setV 0x1 5) = .next t ∧ t.dt ≠ (stateAt 0x200 [0xF1, 0x15] |>.setV 0x1 5).dt) ∧
    (∃ t, step (stateAt 0x200 [0xF1, 0x18] |>.setV 0x1 5) = .next t ∧ t.st ≠ (stateAt 0x200 [0xF1, 0x18] |>.setV 0x1 5).st) ∧
    (∃ t, step State.reset = .next t) ∧
    ∀ x, ¬ Runs State.reset (.skp x) ∧ ¬ Runs State.reset (.sknp x) ∧ ¬ Runs State.reset (.ldVxK x) := by
  refine ⟨⟨_, rfl, by decide⟩, ⟨_, rfl, by decide⟩, ⟨_, rfl⟩, fun x => ?_⟩
  have e : decodeBytes (State.reset.mem.byte State.reset.pc.toNat) (State.reset.mem.byte (State.reset.pc.toNat + 1)) =
      .known (.sys 0x000) := by decide
  refine ⟨fun h => ?_, fun h => ?_, fun h => ?_⟩ <;> (have h := e.symm.trans h.2.2; injection h with h; injection h)

theorem witness_WritersOfEachPart :
    (∃ t, exec .cls (withPixel State.reset 63 31) = .next t ∧ t.disp ≠ (withPixel State.reset 63 31).disp) ∧
    (∃ t, exec (.drw 0x0 0x0 0xF) State.reset = .next t ∧ t.disp ≠ State.reset.disp) ∧
    (∃ t, exec (.ldI 0xFFF) State.reset = .next t ∧ t.iReg ≠ State.reset.iReg) ∧
    (∃ t, exec (.call 0xFFF) State.reset = .next t ∧ t.sp ≠ State.reset.sp ∧ t.mem ≠ State.reset.mem) ∧
    (∃ t, exec (.ldBVx 0x0) (regs [(0x0, 255)]) = .next t ∧ t.mem ≠ (regs [(0x0, 255)]).mem) ∧
    (∃ t, exec (.rnd 0x0 0x0F) State.reset = .next t ∧ t.draws ≠ State.reset.draws) := by
  refine ⟨⟨_, rfl, ?_⟩, ⟨_, rfl, ?_⟩, ⟨_, rfl, ?_⟩, ⟨_, rfl, ?_, ?_⟩, ⟨_, rfl, ?_⟩, ⟨_, rfl, ?_⟩⟩ <;> decide +kernel
theorem witness_RegisterReadsAndWrites :
    (∃ t, exec (.addVxVy 0x1 0x2) State.reset = .next t) ∧ regWrites (.addVxVy 0x1 0x2) 0x2 = false ∧
    regReads (.addVxVy 0x1 0x2) 0xF = false ∧ regReads (.ldMemIVx 0xE) 0xF = false ∧ regWrites (.ldVxMemI 0xE) 0xF = false ∧
    regReads (.shr 0x1 0x2) 0x2 = false := ⟨⟨_, rfl⟩, by decide, by decide, by decide, by decide, by decide⟩

theorem witness_ParkedStateStays : Parked (stateAt 0x0FFE [0x1F, 0xFE]) ∧ Parked (stateAt 0x0000 [0x10, 0x00]) :=
  ⟨⟨rfl, 0x1FFE, 0xFFE, rfl, by decide, by decide⟩, ⟨rfl, 0x1000, 0x000, rfl, by decide, by decide⟩⟩
theorem witness_PlacedWordIsRun : decodeTableWord 16 0x8014 = some (.addVxVy 0x0 0x1) ∧
    (State.reset.setPc 0x0FFE).pc.toNat + 1 < 4096 := by decide

theorem witness_CallPushesAndJumps : State.reset.sp.toNat ≤ 0x0EFF ∧ 0x0EFF < State.reset.sp.toNat + 2 * Params.stackDepth ∧
    0x0EFF < (State.reset.setSp 0x0EE1).sp.toNat + 2 * Params.stackDepth ∧
    (State.reset.setSp 0x0EDF).sp.toNat + 2 * Params.stackDepth ≤ 0x0EFF := by decide
theorem witness_ReturnPopsPc : (State.reset.setSp 0x0EFD).sp.toNat ≠ 0x0EFF ∧ (State.reset.setSp 0x0EFD).sp.toNat + 2 < 4096 ∧
    State.reset.sp.toNat = 0x0EFF := by decide
theorem witness_CallThenReturn : ∃ t u : State, State.reset.sp.toNat ≤ 0x0EFF ∧
    0x0EFF < State.reset.sp.toNat + 2 * Params.stackDepth ∧ exec (.call 0x300) State.reset = .next t ∧ u.sp = t.sp ∧
    (∀ a, State.reset.sp.toNat - 1 ≤ a → a ≤ State.reset.sp.toNat → u.mem.byte a = t.mem.byte a) :=
  ⟨_, _, by decide, by decide, rfl, rfl, fun _ _ _ => rfl⟩
theorem witness_PushPopLifo : (2 ≤ 64) ∧ State.reset.sp.toNat ≤ 0x0EFF ∧ 0x0EFF < State.reset.sp.toNat + 2 * (2 - 1) := by decide

theorem witness_SkipsOnConstant : (State.reset.V 0xF = 0) ∧ State.reset.V 0xF ≠ 0xFF ∧ State.reset.pc.toNat + 4 < 65536 := by decide
theorem witness_SkipsOnRegister : (State.reset.V 0x0 = State.reset.V 0xF) ∧ (regs [(0xF, 1)]).V 0x0 ≠ (regs [(0xF, 1)]).V 0xF := by
  decide
theorem witness_SkipsOnKey :
    (((withKeys (regs [(0x0, 15)]) [15]).V 0x0).toNat < 16 ∧ (withKeys (regs [(0x0, 15)]) [15]).keyFlag 15 = true) ∧
    (((regs [(0x0, 15)]).V 0x0).toNat < 16 ∧ (regs [(0x0, 15)]).keyFlag 15 = false) ∧ 16 ≤ ((regs [(0x0, 16)]).V 0x0).toNat := by
  decide
theorem witness_PcForward : State.reset.pc.toNat + 4 < 65536 ∧ (State.reset.setPc 0x0FFE).pc.toNat + 4 < 65536 := by decide
theorem witness_AddWithCarry : (0xE : RegIdx) ≠ 0xF := by decide
theorem witness_SubtractWithoutBorrow : (0xE : RegIdx) ≠ 0xF := by decide
theorem witness_ShiftsOfVx : (0x0 : RegIdx) ≠ 0xF := by decide

theorem witness_BcdStoresDigits : (State.reset.setI 0x0FFD).iReg.toNat + 2 < 4096 ∧ 4096 ≤ (State.reset.setI 0x0FFE).iReg.toNat + 2 ∧
    4096 ≤ (State.reset.setI 0xFFFF).iReg.toNat + 2 := by decide
theorem witness_DumpStoresRegisters : (State.reset.setI 0x0FF0).iReg.toNat + (0xF : RegIdx).toNat < 4096 ∧
    4096 ≤ (State.reset.setI 0x0FF1).iReg.toNat + (0xF : RegIdx).toNat ∧ (0xF : RegIdx).toNat ≤ (0xF : RegIdx).toNat := by decide
theorem witness_LoadReadsRegisters : (State.reset.setI 0x0FF0).iReg.toNat + (0xF : RegIdx).toNat < 4096 ∧
    4096 ≤ (State.reset.setI 0x0FF1).iReg.toNat + (0xF : RegIdx).toNat ∧ (0xE : RegIdx).toNat < (0xF : RegIdx).toNat := by decide
theorem witness_DumpThenLoadRestores : ∃ s t u : State, s.iReg.toNat + (0xF : RegIdx).toNat < 4096 ∧
    exec (.ldMemIVx 0xF) s = .next t ∧ u.iReg = t.iReg ∧ (∀ a, u.mem.byte a = t.mem.byte a) :=
  ⟨(regs [(0x1, 9)]).setI 0x0FF0, _, _, by decide, rfl, rfl, fun _ => rfl⟩
theorem witness_StoreIsFetched : ∃ s t : State, 1 ≤ (0x1 : RegIdx).toNat ∧ s.iReg.toNat + (0x1 : RegIdx).toNat < 4096 ∧
    exec (.ldMemIVx 0x1) s = .next t := ⟨(regs [(0x1, 9)]).setI 0x0FFE, _, by decide, by decide, rfl⟩

theorem witness_DrawXorsTheSprite : (0x0 : Nibble).toNat = 0 ∧ (State.reset.setI 0x0FF1).iReg.toNat + (0xF : Nibble).toNat ≤ 4096 ∧
    (0xF : Nibble).toNat ≠ 0 ∧ 4096 < (State.reset.setI 0x0FF2).iReg.toNat + (0xF : Nibble).toNat := by decide
theorem witness_DrawTwiceRestores : ∃ t u : State, State.reset.iReg.toNat + (0x1 : Nibble).toNat ≤ 4096 ∧
    exec (.drw 0x0 0x1 0x1) State.reset = .next t ∧ t.V 0x0 = State.reset.V 0x0 ∧ t.V 0x1 = State.reset.V 0x1 ∧
    exec (.drw 0x0 0x1 0x1) t = .next u ∧ t.V 0xF = 0 ∧
    ∃ r c, r < (0x1 : Nibble).toNat ∧ c < 8 ∧ (State.reset.mem.byte (State.reset.iReg.toNat + r)).getLsbD (7 - c) = true :=
  ⟨_, _, by decide, rfl, by decide, by decide, rfl, by decide +kernel, 0, 0, by decide, by decide, by decide⟩
theorem witness_ReadViews : (63 < 64) ∧ (31 < 32) := by decide

theorem witness_WaitForKey : (∀ k, k < 16 → State.reset.keyFlag k = false) ∧
    ((withKeys State.reset [15]).keyFlag 15 = true ∧ ∀ j, j < 15 → (withKeys State.reset [15]).keyFlag j = false) ∧
    (withKeys State.reset [0, 15]).keyFlag 0 = true := by decide
theorem witness_SetKeyState : (15 < 16) ∧ (16 ≤ 16) := by decide
theorem witness_LoadProgram : (List.replicate 0xE00 (0 : Byte)).length ≤ 0xE00 ∧ 0xE00 < (List.replicate 0xE01 (0 : Byte)).length ∧
    ((List.replicate 0xDFF (0 : Byte)).length ≤ 0xE00 ∧ (List.replicate 0xDFF (0 : Byte)).length % 2 = 1) := by
  rw [List.length_replicate, List.length_replicate, List.length_replicate]; decide

end Sys2Proof.Tests
end

section
/-! PROOFS. O15 (R147). One idea serves both halves: an instruction that uses neither timers nor keys commutes with replacing
them (`exec_withIoOf`). Replaced by its own, this says that it keeps them; with another key latch, that it does not see it. -/

namespace Sys2Proof.Machine

/-! ### The timers and the key latch as one part of the state -/

/-- s with the timers and the key latch of u. -/
def State.withIoOf (s u : State) : State := { s with dt := u.dt, st := u.st, key := u.key }

/-- The timers and the key latch are the same in both states. -/
structure SameIo (s t : State) : Prop where
  dt : t.dt = s.dt
  st : t.st = s.st
  key : t.key = s.key

/-- The instructions that read or write a timer or read the key latch (R185, R186, R302, R304, R305, R306). -/
def usesIo : Instr → Bool
  | .skp _ | .sknp _ | .ldVxDt _ | .ldVxK _ | .ldDtVx _ | .ldStVx _ => true
  | _ => false

@[simp] theorem State.withIoOf_pc (s u : State) : (s.withIoOf u).pc = s.pc := rfl
@[simp] theorem State.withIoOf_sp (s u : State) : (s.withIoOf u).sp = s.sp := rfl
@[simp] theorem State.withIoOf_iReg (s u : State) : (s.withIoOf u).iReg = s.iReg := rfl
@[simp] theorem State.withIoOf_mem (s u : State) : (s.withIoOf u).mem = s.mem := rfl

@[simp] theorem State.withIoOf_self (s : State) : s.withIoOf s = s := rfl

theorem State.withIoOf_setKeys_self (s : State) (k : Vector Bool 16) : s.withIoOf (s.setKeys k) = s.setKeys k := rfl

theorem sameIo_withIoOf (s t : State) : SameIo s (t.withIoOf s) := ⟨rfl, rfl, rfl⟩

theorem SameIo.withIoOf_setKeys {s t : State} (h : SameIo s t) (k : Vector Bool 16) :
    t.withIoOf (s.setKeys k) = t.setKeys k := by
  simp [State.withIoOf, State.setKeys, h.dt, h.st]

/-! ### The bodies that can raise neither read nor write that part -/

theorem State.memRead_withIoOf (s u : State) (a : Nat) : (s.withIoOf u).memRead a = s.memRead a := rfl

theorem State.memWrite_withIoOf (s u : State) (a : Nat) (b : Byte) :
    (s.withIoOf u).memWrite a b = (s.memWrite a b).map (·.withIoOf u) := by
  rw [State.memWrite_eq, State.memWrite_eq]
  split <;> rfl

theorem State.writeBytes_withIoOf (s u : State) (a : Nat) (bs : List Byte) :
    (s.withIoOf u).writeBytes a bs = (s.writeBytes a bs).map (·.withIoOf u) := by
  rw [State.writeBytes_eq, State.writeBytes_eq]
  split <;> rfl

theorem State.readBytes_withIoOf (s u : State) (a n : Nat) : (s.withIoOf u).readBytes a n = s.readBytes a n := by
  rw [State.readBytes_eq, State.readBytes_eq, State.withIoOf_mem]

theorem State.setVs_withIoOf (bs : List Byte) (s u : State) (n : Nat) :
    (s.withIoOf u).setVs n bs = (s.setVs n bs).withIoOf u := by
  induction bs generalizing s n with
  | nil => rfl
  | cons b bs ih => exact ih (s.setV (regOf n) b) (n + 1)

theorem State.loadRegs_withIoOf (s u : State) (x : RegIdx) :
    (s.withIoOf u).loadRegs x = (s.loadRegs x).map (·.withIoOf u) := by
  rw [State.loadRegs, State.loadRegs, State.withIoOf_iReg, State.readBytes_withIoOf]
  cases s.readBytes s.iReg.toNat (x.toNat + 1) with
  | error f => rfl
  | ok bs => exact congrArg Except.ok (State.setVs_withIoOf bs s u 0)

theorem State.drawFrom_withIoOf (s u : State) (cx cy : Byte) (n : Nibble) :
    (s.withIoOf u).drawFrom cx cy n = (s.drawFrom cx cy n).map (·.withIoOf u) := by
  rw [State.drawFrom, State.drawFrom, State.withIoOf_iReg, State.readBytes_withIoOf]
  cases s.readBytes s.iReg.toNat n.toNat <;> rfl

theorem State.push_withIoOf (s u : State) (depth : Nat) (w : Word) :
    (s.withIoOf u).push depth w = (s.push depth w).map (·.withIoOf u) := by
  by_cases h : depth ≤ s.stackUsed
  · rw [State.push_full s depth w h, State.push_full (s.withIoOf u) depth w h]
    rfl
  · have h' : ¬ (s.withIoOf u).stackUsed ≥ depth := h
    rw [State.push, State.push, if_neg h, if_neg h', State.withIoOf_sp, State.memWrite_withIoOf]
    cases s.memWrite (s.sp.toNat - 1) (highByte w) with
    | error f => rfl
    | ok s1 =>
      simp only [Except.map, State.memWrite_withIoOf]
      cases s1.memWrite s.sp.toNat (lowByte w) <;> rfl

theorem State.pop_withIoOf (s u : State) : (s.withIoOf u).pop = s.pop.map (Prod.map id (·.withIoOf u)) := by
  by_cases h : s.sp.toNat = 0x0EFF
  · rw [State.pop_empty s h, State.pop_empty (s.withIoOf u) h]
    rfl
  · rw [State.pop_eq, State.pop_eq, State.withIoOf_sp, if_neg h, if_neg h, State.memRead_withIoOf, State.memRead_withIoOf]
    cases s.memRead (s.sp.toNat + 1) with
    | error f => rfl
    | ok hi => cases s.memRead (s.sp.toNat + 2) <;> rfl

theorem State.callTo_withIoOf (s u : State) (depth : Nat) (nnn : Addr12) :
    (s.withIoOf u).callTo depth nnn = (s.callTo depth nnn).map (·.withIoOf u) := by
  rw [State.callTo, State.callTo, State.push_withIoOf, State.withIoOf_pc]
  cases s.push depth s.pc <;> rfl

theorem State.returnToCaller_withIoOf (s u : State) :
    (s.withIoOf u).returnToCaller = s.returnToCaller.map (·.withIoOf u) := by
  rw [State.returnToCaller, State.returnToCaller, State.pop_withIoOf]
  cases s.pop <;> rfl

/-! ### Instructions -/

theorem State.skipIf_withIoOf (s u : State) (c : Bool) : (s.withIoOf u).skipIf c = (s.skipIf c).withIoOf u := by
  cases c <;> rfl

/-- An instruction that goes through `commit` commutes with the replacement if its body does. -/
theorem State.commit_withIoOf {s t : State} {op : Word} {e e' : Except Fault State} (u : State)
    (he : e' = e.map (·.withIoOf u)) (h : s.commit op e = .next t) :
    (s.withIoOf u).commit op e' = .next (t.withIoOf u) := by
  subst he
  cases e with
  | ok v => cases h; rfl
  | error f => cases h; rfl

/-- An instruction that uses neither timers nor keys does the same whatever they hold. -/
theorem exec_withIoOf {i : Instr} {s t : State} (u : State) (hi : usesIo i = false) (h : exec i s = .next t) :
    exec i (s.withIoOf u) = .next (t.withIoOf u) := by
  cases i with
  | ret => exact State.commit_withIoOf u (s.advance.returnToCaller_withIoOf u) h
  | call nnn => exact State.commit_withIoOf u (s.advance.callTo_withIoOf u Params.stackDepth nnn) h
  | drw x y n => exact State.commit_withIoOf u (s.advance.drawFrom_withIoOf u (s.V x) (s.V y) n) h
  | ldBVx x => exact State.commit_withIoOf u (s.advance.writeBytes_withIoOf u s.iReg.toNat (bcdDigits (s.V x))) h
  | ldMemIVx x => exact State.commit_withIoOf u (s.advance.writeBytes_withIoOf u s.iReg.toNat (s.regsUpTo x)) h
  | ldVxMemI x => exact State.commit_withIoOf u (s.advance.loadRegs_withIoOf u x) h
  | seVxNn | sneVxNn | seVxVy | sneVxVy => cases h; exact congrArg _ (s.advance.skipIf_withIoOf u _)
  | skp | sknp | ldVxDt | ldVxK | ldDtVx | ldStVx => cases hi
  | _ => cases h; rfl

/-- Such an instruction keeps them. -/
theorem exec_sameIo {i : Instr} {s t : State} (hi : usesIo i = false) (h : exec i s = .next t) : SameIo s t := by
  have h' := exec_withIoOf s hi h
  rw [State.withIoOf_self] at h'
  rw [show t = t.withIoOf s from Host.Outcome.next.inj (h.symm.trans h')]
  exact sameIo_withIoOf s t

/-- A key skip keeps timers and keys, whether it ends well or raises. -/
theorem commit_skipOnKey_sameIo {s t : State} {op : Word} {held : Bool} {k : Byte}
    (h : s.commit op (s.advance.skipOnKey held k) = .next t) : SameIo s t := by
  rcases State.commit_cases _ _ _ _ h with he | ⟨f, -, rfl⟩
  · rw [State.skipOnKey_eq] at he
    split at he
    · cases he
      rw [State.skipIf_eq]
      exact ⟨rfl, rfl, rfl⟩
    · cases he
  · exact ⟨rfl, rfl, rfl⟩

/-- The key wait keeps timers and keys. -/
theorem waitKey_sameIo (s : State) (x : RegIdx) : SameIo s (s.advance.waitKey x) := by
  rcases s.advance.waitKey_cases x with ⟨-, hw⟩ | ⟨k, -, hw⟩ <;> rw [hw] <;> exact ⟨rfl, rfl, rfl⟩

/-- FX15 changes DT alone of the three, FX18 ST alone, and every other instruction keeps all three. -/
theorem exec_io_cases {i : Instr} {s t : State} (h : exec i s = .next t) :
    (∃ x, i = .ldDtVx x ∧ t.st = s.st ∧ t.key = s.key) ∨
    (∃ x, i = .ldStVx x ∧ t.dt = s.dt ∧ t.key = s.key) ∨ SameIo s t := by
  cases i with
  | ldDtVx x => cases h; exact .inl ⟨x, rfl, rfl, rfl⟩
  | ldStVx x => cases h; exact .inr (.inl ⟨x, rfl, rfl, rfl⟩)
  | skp x | sknp x => exact .inr (.inr (commit_skipOnKey_sameIo h))
  | ldVxK x => cases h; exact .inr (.inr (waitKey_sameIo s x))
  | ldVxDt x => cases h; exact .inr (.inr ⟨rfl, rfl, rfl⟩)
  | _ => exact .inr (.inr (exec_sameIo rfl h))

/-- Every instruction but the three key queries runs the same whatever the key latch holds. -/
theorem exec_setKeys {i : Instr} {s t : State} (k : Vector Bool 16)
    (hi : ∀ x, i ≠ .skp x ∧ i ≠ .sknp x ∧ i ≠ .ldVxK x) (h : exec i s = .next t) :
    exec i (s.setKeys k) = .next (t.setKeys k) := by
  cases i with
  | skp x => exact absurd rfl (hi x).1
  | sknp x => exact absurd rfl (hi x).2.1
  | ldVxK x => exact absurd rfl (hi x).2.2
  | ldVxDt | ldDtVx | ldStVx => cases h; rfl
  | _ =>
    rw [← s.withIoOf_setKeys_self, exec_withIoOf (s.setKeys k) rfl h, (exec_sameIo rfl h).withIoOf_setKeys]

/-! ### The step -/

/-- A step stands still, takes a fault, or runs an instruction. -/
theorem step_next_cases {s t : State} (h : step s = .next t) :
    t = s ∨ (∃ op f, t = s.takeFault op f) ∨ ∃ i, Runs s i ∧ exec i s = .next t := by
  rcases step_cases s with ⟨-, hs⟩ | ⟨-, -, hs⟩ | ⟨-, -, op, -, hs⟩ | ⟨h0, hp, i, hd, hs⟩
  · exact .inl (Host.Outcome.next.inj (h.symm.trans hs))
  · exact .inr (.inl ⟨_, _, Host.Outcome.next.inj (h.symm.trans hs)⟩)
  · exact .inr (.inl ⟨_, _, Host.Outcome.next.inj (h.symm.trans hs)⟩)
  · exact .inr (.inr ⟨i, ⟨h0, hp, hd⟩, hs.symm.trans h⟩)

/-- A step changes DT only by FX15, ST only by FX18, and the key latch never. -/
theorem step_io_writers {s t : State} (h : step s = .next t) :
    (t.dt ≠ s.dt → ∃ x, Runs s (.ldDtVx x)) ∧ (t.st ≠ s.st → ∃ x, Runs s (.ldStVx x)) ∧ t.key = s.key := by
  rcases step_next_cases h with rfl | ⟨op, f, rfl⟩ | ⟨i, hr, he⟩
  · exact ⟨absurd rfl, absurd rfl, rfl⟩
  · exact ⟨absurd rfl, absurd rfl, rfl⟩
  · rcases exec_io_cases he with ⟨x, rfl, hst, hkey⟩ | ⟨x, rfl, hdt, hkey⟩ | ⟨hdt, hst, hkey⟩
    · exact ⟨fun _ => ⟨x, hr⟩, absurd hst, hkey⟩
    · exact ⟨absurd hdt, fun _ => ⟨x, hr⟩, hkey⟩
    · exact ⟨absurd hdt, absurd hst, hkey⟩

theorem State.opcodeAt_setKeys (s : State) (k : Vector Bool 16) : (s.setKeys k).opcodeAt = s.opcodeAt := rfl

/-- A step that runs no key query is the same whatever the key latch holds: neither the halted check nor the fetch and the
decoding reads it. -/
theorem step_setKeys {s t : State} (k : Vector Bool 16) (h : step s = .next t)
    (hq : ∀ x, ¬ Runs s (.skp x) ∧ ¬ Runs s (.sknp x) ∧ ¬ Runs s (.ldVxK x)) :
    step (s.setKeys k) = .next (t.setKeys k) := by
  rcases step_cases s with ⟨h0, hs⟩ | ⟨h0, hp, hs⟩ | ⟨h0, hp, op, hd, hs⟩ | ⟨h0, hp, i, hd, hs⟩ <;> rw [hs] at h
  · cases h
    exact step_halted (s.setKeys k) h0
  · cases h
    exact step_fetch_fault (s.setKeys k) h0 hp
  · cases h
    rw [step_fetched (s.setKeys k) h0 hp, State.opcodeAt_setKeys, hd]
    rfl
  · rw [step_fetched (s.setKeys k) h0 hp, State.opcodeAt_setKeys, hd]
    have hr : Runs s i := ⟨h0, hp, hd⟩
    refine exec_setKeys k (fun x => ?_) h
    obtain ⟨h1, h2, h3⟩ := hq x
    exact ⟨fun e => h1 (e ▸ hr), fun e => h2 (e ▸ hr), fun e => h3 (e ▸ hr)⟩

end Sys2Proof.Machine

open Sys2Proof.Machine

/-- Settles O15: the two halves of R147, each a lemma about the step. -/
theorem timersAndKeyLatch : Obligations.TimersAndKeyLatch :=
  ⟨fun _ _ h => step_io_writers h, fun _ _ k h hq => step_setKeys k h hq⟩
end

section
/-! PROOFS. O20 (R162). The encoding goes through the format of 1NNN; the frame is that of a write to PC, since the jump
overwrites the advance. -/

namespace Sys2Proof.Machine

/-- The number an NNN rule's "Encoding" line writes is the encoded word. -/
theorem ofNat_eq_encodeNNN (c : Nibble) (nnn : Addr12) :
    BitVec.ofNat 16 (c.toNat * 4096 + nnn.toNat) = encodeNNN c nnn := by
  rw [← encodeNNN_toNat, BitVec.ofNat_toNat, BitVec.setWidth_eq]

theorem decode_encodeNNN_jp (nnn : Addr12) : decode (encodeNNN 0x1 nnn) = .known (.jp nnn) := by
  simp [decode]

theorem encodedAs_jp (nnn : Addr12) : EncodedAs (0x1000 + nnn.toNat) (.jp nnn) :=
  (congrArg decode (ofNat_eq_encodeNNN 0x1 nnn)).trans (decode_encodeNNN_jp nnn)

@[simp] theorem zextAddr_toNat (nnn : Addr12) : (zextAddr nnn).toNat = nnn.toNat :=
  BitVec.toNat_setWidth_of_le (by decide)

/-- A write to PC changes no other part of the state. -/
theorem changesOnly_setPc (s : State) (w : Word) : ChangesOnly [.pc] s (s.setPc w) := by
  intro p hp
  cases p with
  | pc => simp at hp
  | _ => simp [Part.same]

/-- The jump overwrites the advance: it is one write to PC. -/
theorem exec_jp (s : State) (nnn : Addr12) : exec (.jp nnn) s = .next (s.setPc (zextAddr nnn)) := rfl

end Sys2Proof.Machine

open Sys2Proof.Machine

/-- Settles O20: the encoding by its format, the effect as one write to PC. -/
theorem jumpSetsPc : Obligations.JumpSetsPc := fun s nnn =>
  ⟨encodedAs_jp nnn, s.setPc (zextAddr nnn), exec_jp s nnn, zextAddr_toNat nnn, changesOnly_setPc s (zextAddr nnn)⟩
end

section
/-! PROOFS. O27 (R181, R182). The encodings go through the format of 3XNN and 4XNN; the effect is R180, said once for a skip
after the advance whatever its test is: it changes PC alone, by 4 when the test holds and by 2 when it fails. -/

namespace Sys2Proof.Machine

/-! ### Encodings -/

/-- The number an XNN rule's "Encoding" line writes is the encoded word. -/
theorem ofNat_eq_encodeXNN (c x : Nibble) (nn : Byte) :
    BitVec.ofNat 16 (c.toNat * 4096 + x.toNat * 256 + nn.toNat) = encodeXNN c x nn := by
  rw [← encodeXNN_toNat, BitVec.ofNat_toNat, BitVec.setWidth_eq]

theorem decode_encodeXNN_seVxNn (x : RegIdx) (nn : Byte) : decode (encodeXNN 0x3 x nn) = .known (.seVxNn x nn) := by
  simp [decode]

theorem decode_encodeXNN_sneVxNn (x : RegIdx) (nn : Byte) : decode (encodeXNN 0x4 x nn) = .known (.sneVxNn x nn) := by
  simp [decode]

theorem encodedAs_seVxNn (x : RegIdx) (nn : Byte) : EncodedAs (0x3000 + x.toNat * 256 + nn.toNat) (.seVxNn x nn) :=
  (congrArg decode (ofNat_eq_encodeXNN 0x3 x nn)).trans (decode_encodeXNN_seVxNn x nn)

theorem encodedAs_sneVxNn (x : RegIdx) (nn : Byte) : EncodedAs (0x4000 + x.toNat * 256 + nn.toNat) (.sneVxNn x nn) :=
  (congrArg decode (ofNat_eq_encodeXNN 0x4 x nn)).trans (decode_encodeXNN_sneVxNn x nn)

/-! ### The skip of R180, after the advance -/

/-- The advance and the skip together are one write to PC. -/
theorem advance_skipIf (s : State) (c : Bool) :
    s.advance.skipIf c = s.setPc (if c then s.pc + 2 + 2 else s.pc + 2) :=
  s.advance.skipIf_eq c

theorem changesOnly_advance_skipIf (s : State) (c : Bool) : ChangesOnly [.pc] s (s.advance.skipIf c) :=
  advance_skipIf s c ▸ changesOnly_setPc s _

theorem pcForward_advance_skipIf_true (s : State) : PcForward 4 s (s.advance.skipIf true) := by
  intro hpc
  have hsum : (s.pc + 2 + 2).toNat = s.pc.toNat + 4 := by bv_omega
  simpa [advance_skipIf] using hsum

theorem pcForward_advance_skipIf_false (s : State) : PcForward 2 s (s.advance.skipIf false) := by
  intro hpc
  have hsum : (s.pc + 2).toNat = s.pc.toNat + 2 := by bv_omega
  simpa [advance_skipIf] using hsum

/-- What a skip with test c does to PC, in the two cases of a proposition p that c decides. -/
theorem pcForward_advance_skipIf (s : State) {c : Bool} {p : Prop} (hc : c = true ↔ p) :
    (p → PcForward 4 s (s.advance.skipIf c)) ∧ (¬ p → PcForward 2 s (s.advance.skipIf c)) := by
  cases c with
  | true => exact ⟨fun _ => pcForward_advance_skipIf_true s, fun hp => absurd (hc.1 rfl) hp⟩
  | false => exact ⟨fun hp => Bool.noConfusion (hc.2 hp), fun _ => pcForward_advance_skipIf_false s⟩

/-! ### The two instructions -/

theorem exec_seVxNn (s : State) (x : RegIdx) (nn : Byte) :
    exec (.seVxNn x nn) s = .next (s.advance.skipIf (s.V x == nn)) := rfl

theorem exec_sneVxNn (s : State) (x : RegIdx) (nn : Byte) :
    exec (.sneVxNn x nn) s = .next (s.advance.skipIf (s.V x != nn)) := rfl

end Sys2Proof.Machine

open Sys2Proof.Machine

/-- Settles O27: the encodings by their format, the effects as the skip of R180 with the two tests. -/
theorem skipsOnConstant : Obligations.SkipsOnConstant := fun s x nn => by
  obtain ⟨hseTaken, hseNot⟩ := pcForward_advance_skipIf s (beq_iff_eq (a := s.V x) (b := nn))
  obtain ⟨hsneTaken, hsneNot⟩ := pcForward_advance_skipIf s (bne_iff_ne (a := s.V x) (b := nn))
  exact ⟨encodedAs_seVxNn x nn, encodedAs_sneVxNn x nn,
    ⟨_, exec_seVxNn s x nn, changesOnly_advance_skipIf s _, hseTaken, hseNot⟩,
    ⟨_, exec_sneVxNn s x nn, changesOnly_advance_skipIf s _, hsneTaken, fun h => hsneNot (not_not_intro h)⟩⟩
end

section
/-! PROOFS. O30 (R202, R203). Each of the two is the advance and one register write; what such a pair leaves unchanged is said
once, whatever the value written. -/

namespace Sys2Proof.Machine

/-! ### The advance and one register write -/

/-- A register write keeps PC: only the advance moves it, as in a skip not taken. -/
theorem pcForward_advance_setV (s : State) (x : RegIdx) (b : Byte) : PcForward 2 s (s.advance.setV x b) :=
  pcForward_advance_skipIf_false s

theorem changesOnly_advance_setV (s : State) (x : RegIdx) (b : Byte) :
    ChangesOnly [.v, .pc] s (s.advance.setV x b) := by
  intro p hp
  cases p with
  | v | pc => simp at hp
  | _ => simp [Part.same]

/-- The frame of a register write after the advance: no other register, PC forward by 2, no other part of the state. -/
theorem advance_setV_frame (s : State) (x : RegIdx) (b : Byte) :
    OtherRegsSame x s (s.advance.setV x b) ∧ PcForward 2 s (s.advance.setV x b) ∧
      ChangesOnly [.v, .pc] s (s.advance.setV x b) :=
  ⟨State.V_setV_ne s.advance x b, pcForward_advance_setV s x b, changesOnly_advance_setV s x b⟩

/-! ### Encodings -/

theorem decode_encodeXNN_ldVxNn (x : RegIdx) (nn : Byte) : decode (encodeXNN 0x6 x nn) = .known (.ldVxNn x nn) := by
  simp [decode]

theorem decode_encodeXNN_addVxNn (x : RegIdx) (nn : Byte) : decode (encodeXNN 0x7 x nn) = .known (.addVxNn x nn) := by
  simp [decode]

theorem encodedAs_ldVxNn (x : RegIdx) (nn : Byte) : EncodedAs (0x6000 + x.toNat * 256 + nn.toNat) (.ldVxNn x nn) :=
  (congrArg decode (ofNat_eq_encodeXNN 0x6 x nn)).trans (decode_encodeXNN_ldVxNn x nn)

theorem encodedAs_addVxNn (x : RegIdx) (nn : Byte) : EncodedAs (0x7000 + x.toNat * 256 + nn.toNat) (.addVxNn x nn) :=
  (congrArg decode (ofNat_eq_encodeXNN 0x7 x nn)).trans (decode_encodeXNN_addVxNn x nn)

/-! ### The two instructions -/

/-- wrap8 of a natural number is its remainder by 256 (R200). -/
theorem wrap8_natCast_toNat (n : Nat) : (wrap8 n).toNat = n % 256 := by
  simp [wrap8]

theorem exec_ldVxNn (s : State) (x : RegIdx) (nn : Byte) :
    exec (.ldVxNn x nn) s = .next (s.advance.setV x nn) := rfl

theorem exec_addVxNn (s : State) (x : RegIdx) (nn : Byte) :
    exec (.addVxNn x nn) s = .next (s.advance.setV x (wrap8 ((s.V x).toNat + nn.toNat))) := rfl

theorem addVxNn_result_toNat (s : State) (x : RegIdx) (nn : Byte) :
    ((s.advance.setV x (wrap8 ((s.V x).toNat + nn.toNat))).V x).toNat = ((s.V x).toNat + nn.toNat) % 256 := by
  rw [State.V_setV_self, ← Nat.cast_add, wrap8_natCast_toNat]

end Sys2Proof.Machine

open Sys2Proof.Machine

/-- Settles O30: the encodings by their format, the effects as one register write after the advance. -/
theorem immediateLoadAndAdd : Obligations.ImmediateLoadAndAdd := fun s x nn =>
  ⟨encodedAs_ldVxNn x nn, encodedAs_addVxNn x nn,
    ⟨_, exec_ldVxNn s x nn, State.V_setV_self s.advance x nn, advance_setV_frame s x _⟩,
    ⟨_, exec_addVxNn s x nn, addVxNn_result_toNat s x nn, advance_setV_frame s x _⟩⟩
end

section
/-! PROOFS. O31 (R204 to R207). The encodings go through class 8, whose low nibble names the operation; the effects are one
register write after the advance, so VF is written only as the destination. -/

namespace Sys2Proof.Machine

/-! ### Encodings -/

/-- The number an XYN rule's "Encoding" line writes, with C and N in its leading constant, is the encoded word. -/
theorem ofNat_eq_encodeXYN (c x y n : Nibble) :
    BitVec.ofNat 16 (c.toNat * 4096 + n.toNat + x.toNat * 256 + y.toNat * 16) = encodeXYN c x y n := by
  have hsum : c.toNat * 4096 + n.toNat + x.toNat * 256 + y.toNat * 16 = (encodeXYN c x y n).toNat := by
    rw [encodeXYN_toNat]
    omega
  rw [hsum, BitVec.ofNat_toNat, BitVec.setWidth_eq]

/-- In class 8 the decoder leaves the choice to the ALU operation (R103, R106). -/
theorem decode_encodeXYN_class8 (x y n : Nibble) :
    decode (encodeXYN 0x8 x y n) = .known (decodeClass8 (encodeXYN 0x8 x y n)) := by
  simp [decode]

theorem encodedAs_class8 (x y n : Nibble) :
    EncodedAs (0x8000 + n.toNat + x.toNat * 256 + y.toNat * 16) (decodeClass8 (encodeXYN 0x8 x y n)) :=
  (congrArg decode (ofNat_eq_encodeXYN 0x8 x y n)).trans (decode_encodeXYN_class8 x y n)

theorem encodedAs_ldVxVy (x y : RegIdx) : EncodedAs (0x8000 + x.toNat * 256 + y.toNat * 16) (.ldVxVy x y) := by
  simpa [decodeClass8] using encodedAs_class8 x y 0x0

theorem encodedAs_or (x y : RegIdx) : EncodedAs (0x8001 + x.toNat * 256 + y.toNat * 16) (.or x y) := by
  simpa [decodeClass8] using encodedAs_class8 x y 0x1

theorem encodedAs_and (x y : RegIdx) : EncodedAs (0x8002 + x.toNat * 256 + y.toNat * 16) (.and x y) := by
  simpa [decodeClass8] using encodedAs_class8 x y 0x2

theorem encodedAs_xor (x y : RegIdx) : EncodedAs (0x8003 + x.toNat * 256 + y.toNat * 16) (.xor x y) := by
  simpa [decodeClass8] using encodedAs_class8 x y 0x3

/-! ### The four instructions -/

theorem exec_ldVxVy (s : State) (x y : RegIdx) : exec (.ldVxVy x y) s = .next (s.advance.setV x (s.V y)) := rfl

theorem exec_or (s : State) (x y : RegIdx) : exec (.or x y) s = .next (s.advance.setV x (s.V x ||| s.V y)) := rfl

theorem exec_and (s : State) (x y : RegIdx) : exec (.and x y) s = .next (s.advance.setV x (s.V x &&& s.V y)) := rfl

theorem exec_xor (s : State) (x y : RegIdx) : exec (.xor x y) s = .next (s.advance.setV x (s.V x ^^^ s.V y)) := rfl

end Sys2Proof.Machine

open Sys2Proof.Machine

/-- Settles O31: the encodings by class 8, the effects as one register write after the advance, read bit by bit. -/
theorem assignAndBitwise : Obligations.AssignAndBitwise := fun s x y =>
  ⟨encodedAs_ldVxVy x y, encodedAs_or x y, encodedAs_and x y, encodedAs_xor x y,
    ⟨_, exec_ldVxVy s x y, State.V_setV_self s.advance x _, advance_setV_frame s x _⟩,
    ⟨_, exec_or s x y, fun k => by rw [State.V_setV_self, BitVec.getLsbD_or], advance_setV_frame s x _⟩,
    ⟨_, exec_and s x y, fun k => by rw [State.V_setV_self, BitVec.getLsbD_and], advance_setV_frame s x _⟩,
    ⟨_, exec_xor s x y, fun k => by rw [State.V_setV_self, BitVec.getLsbD_xor], advance_setV_frame s x _⟩⟩
end

section
/-! PROOFS. O36 (R240, R242). Each of the two is the advance and one write to I; what such a pair leaves unchanged is said once,
whatever the value written. V[x] × 5 is at most 255 × 5, so the 16-bit product does not wrap. -/

namespace Sys2Proof.Machine

/-! ### The advance and one write to I -/

/-- A write to I keeps PC: only the advance moves it, as in a skip not taken. -/
theorem pcForward_advance_setI (s : State) (w : Word) : PcForward 2 s (s.advance.setI w) :=
  pcForward_advance_skipIf_false s

theorem changesOnly_advance_setI (s : State) (w : Word) : ChangesOnly [.iReg, .pc] s (s.advance.setI w) := by
  intro p hp
  cases p with
  | iReg | pc => simp at hp
  | _ => simp [Part.same]

/-- The frame of a write to I after the advance: PC forward by 2, no other part of the state but I. -/
theorem advance_setI_frame (s : State) (w : Word) :
    PcForward 2 s (s.advance.setI w) ∧ ChangesOnly [.iReg, .pc] s (s.advance.setI w) :=
  ⟨pcForward_advance_setI s w, changesOnly_advance_setI s w⟩

/-! ### Encodings -/

theorem decode_encodeNNN_ldI (nnn : Addr12) : decode (encodeNNN 0xA nnn) = .known (.ldI nnn) := by
  simp [decode]

theorem encodedAs_ldI (nnn : Addr12) : EncodedAs (0xA000 + nnn.toNat) (.ldI nnn) :=
  (congrArg decode (ofNat_eq_encodeNNN 0xA nnn)).trans (decode_encodeNNN_ldI nnn)

/-- The number an FX rule's "Encoding" line writes, with C and NN in its leading constant, is the encoded word. -/
theorem ofNat_eq_encodeXNN_constants_first (c x : Nibble) (nn : Byte) :
    BitVec.ofNat 16 (c.toNat * 4096 + nn.toNat + x.toNat * 256) = encodeXNN c x nn := by
  rw [Nat.add_right_comm, ofNat_eq_encodeXNN]

theorem decode_encodeXNN_ldFVx (x : RegIdx) : decode (encodeXNN 0xF x 0x29) = .known (.ldFVx x) := by
  simp [decode, decodeClassF]

theorem encodedAs_ldFVx (x : RegIdx) : EncodedAs (0xF029 + x.toNat * 256) (.ldFVx x) :=
  (congrArg decode (ofNat_eq_encodeXNN_constants_first 0xF x 0x29)).trans (decode_encodeXNN_ldFVx x)

/-! ### The two instructions -/

/-- The whole byte is scaled, with no mask and no wrap (R242). -/
theorem glyphAddr_toNat (b : Byte) : (glyphAddr b).toNat = b.toNat * 5 := by
  have hb : (zextByte b).toNat = b.toNat := BitVec.toNat_setWidth_of_le (by decide)
  have hlt : b.toNat < 256 := b.isLt
  rw [glyphAddr, BitVec.toNat_mul, hb]
  exact Nat.mod_eq_of_lt (by omega : b.toNat * 5 < 65536)

theorem exec_ldI (s : State) (nnn : Addr12) : exec (.ldI nnn) s = .next (s.advance.setI (zextAddr nnn)) := rfl

/-- The advance writes no register, so V[x] is that of the state before it. -/
theorem exec_ldFVx (s : State) (x : RegIdx) : exec (.ldFVx x) s = .next (s.advance.setI (glyphAddr (s.V x))) := rfl

end Sys2Proof.Machine

open Sys2Proof.Machine

/-- Settles O36: the encodings by their formats, the effects as one write to I after the advance. -/
theorem indexLoads : Obligations.IndexLoads := fun s nnn x =>
  ⟨encodedAs_ldI nnn, encodedAs_ldFVx x,
    ⟨_, exec_ldI s nnn, zextAddr_toNat nnn, advance_setI_frame s _⟩,
    ⟨_, exec_ldFVx s x, glyphAddr_toNat (s.V x), advance_setI_frame s _⟩⟩
end

section
/-! PROOFS. O43 (R274). 00E0 is the advance and one write of the display, so what such a pair leaves unchanged is said once,
whatever the display written; that a cleared display is Off everywhere is the model's law `Display.pixel_clear`. -/

namespace Sys2Proof.Machine

/-! ### The advance and one write of the display -/

/-- A write of the display keeps PC: only the advance moves it, as in a skip not taken. -/
theorem pcForward_advance_setDisp (s : State) (d : Display) : PcForward 2 s (s.advance.setDisp d) :=
  pcForward_advance_skipIf_false s

theorem changesOnly_advance_setDisp (s : State) (d : Display) : ChangesOnly [.disp, .pc] s (s.advance.setDisp d) := by
  intro p hp
  cases p with
  | disp | pc => simp at hp
  | _ => simp [Part.same]

/-- The frame of a write of the display after the advance: PC forward by 2, no other part of the state but the display. -/
theorem advance_setDisp_frame (s : State) (d : Display) :
    PcForward 2 s (s.advance.setDisp d) ∧ ChangesOnly [.disp, .pc] s (s.advance.setDisp d) :=
  ⟨pcForward_advance_setDisp s d, changesOnly_advance_setDisp s d⟩

/-! ### The instruction -/

/-- 00E0 is an opcode of its own, with no operand (R274). -/
theorem encodedAs_cls : EncodedAs 0x00E0 .cls := rfl

theorem exec_cls (s : State) : exec .cls s = .next (s.advance.setDisp Display.clear) := rfl

theorem advance_setDisp_clear_pixel (s : State) (px py : Nat) :
    (s.advance.setDisp Display.clear).disp.pixel px py = false := by
  rw [State.setDisp_disp, Display.pixel_clear]

end Sys2Proof.Machine

open Sys2Proof.Machine

/-- Settles O43: the encoding by its one opcode, the effect as one write of the cleared display after the advance. -/
theorem clearTurnsPixelsOff : Obligations.ClearTurnsPixelsOff :=
  ⟨encodedAs_cls, fun s => ⟨_, exec_cls s, advance_setDisp_clear_pixel s, advance_setDisp_frame s _⟩⟩
end

section
/-! PROOFS. O47 (R302, R305, R306). FX07 is the advance and one register write, whose frame is `advance_setV_frame`. FX15 and
FX18 are the advance and one write of a timer; what such a pair leaves unchanged is said once for each timer, whatever the byte
written. -/

namespace Sys2Proof.Machine

/-! ### The advance and one write of a timer -/

theorem changesOnly_advance_setDt (s : State) (b : Byte) : ChangesOnly [.dt, .pc] s (s.advance.setDt b) := by
  intro p hp
  cases p with
  | dt | pc => simp at hp
  | _ => simp [Part.same]

theorem changesOnly_advance_setSt (s : State) (b : Byte) : ChangesOnly [.st, .pc] s (s.advance.setSt b) := by
  intro p hp
  cases p with
  | st | pc => simp at hp
  | _ => simp [Part.same]

/-- The frame of a write of DT after the advance: only the advance moves PC, as in a skip not taken, and no other part of the
state changes but DT. -/
theorem advance_setDt_frame (s : State) (b : Byte) :
    PcForward 2 s (s.advance.setDt b) ∧ ChangesOnly [.dt, .pc] s (s.advance.setDt b) :=
  ⟨pcForward_advance_skipIf_false s, changesOnly_advance_setDt s b⟩

/-- The frame of a write of ST after the advance, as for DT. -/
theorem advance_setSt_frame (s : State) (b : Byte) :
    PcForward 2 s (s.advance.setSt b) ∧ ChangesOnly [.st, .pc] s (s.advance.setSt b) :=
  ⟨pcForward_advance_skipIf_false s, changesOnly_advance_setSt s b⟩

/-! ### Encodings -/

theorem decode_encodeXNN_ldVxDt (x : RegIdx) : decode (encodeXNN 0xF x 0x07) = .known (.ldVxDt x) := by
  simp [decode, decodeClassF]

theorem decode_encodeXNN_ldDtVx (x : RegIdx) : decode (encodeXNN 0xF x 0x15) = .known (.ldDtVx x) := by
  simp [decode, decodeClassF]

theorem decode_encodeXNN_ldStVx (x : RegIdx) : decode (encodeXNN 0xF x 0x18) = .known (.ldStVx x) := by
  simp [decode, decodeClassF]

theorem encodedAs_ldVxDt (x : RegIdx) : EncodedAs (0xF007 + x.toNat * 256) (.ldVxDt x) :=
  (congrArg decode (ofNat_eq_encodeXNN_constants_first 0xF x 0x07)).trans (decode_encodeXNN_ldVxDt x)

theorem encodedAs_ldDtVx (x : RegIdx) : EncodedAs (0xF015 + x.toNat * 256) (.ldDtVx x) :=
  (congrArg decode (ofNat_eq_encodeXNN_constants_first 0xF x 0x15)).trans (decode_encodeXNN_ldDtVx x)

theorem encodedAs_ldStVx (x : RegIdx) : EncodedAs (0xF018 + x.toNat * 256) (.ldStVx x) :=
  (congrArg decode (ofNat_eq_encodeXNN_constants_first 0xF x 0x18)).trans (decode_encodeXNN_ldStVx x)

/-! ### The three instructions -/

theorem exec_ldVxDt (s : State) (x : RegIdx) : exec (.ldVxDt x) s = .next (s.advance.setV x s.dt) := rfl

theorem exec_ldDtVx (s : State) (x : RegIdx) : exec (.ldDtVx x) s = .next (s.advance.setDt (s.V x)) := rfl

theorem exec_ldStVx (s : State) (x : RegIdx) : exec (.ldStVx x) s = .next (s.advance.setSt (s.V x)) := rfl

end Sys2Proof.Machine

open Sys2Proof.Machine

/-- Settles O47: the encodings by their format, the effects as one write, of V[x], DT or ST, after the advance. -/
theorem timerTransfers : Obligations.TimerTransfers := fun s x =>
  ⟨encodedAs_ldVxDt x, encodedAs_ldDtVx x, encodedAs_ldStVx x,
    ⟨_, exec_ldVxDt s x, State.V_setV_self s.advance x _, advance_setV_frame s x _⟩,
    ⟨_, exec_ldDtVx s x, State.setDt_dt s.advance _, advance_setDt_frame s _⟩,
    ⟨_, exec_ldStVx s x, State.setSt_st s.advance _, advance_setSt_frame s _⟩⟩
end

section
/-! PROOFS. O1, O5 (R101 to R104). The four formats already give their fields back, so each class of the decoder is left with the
one test that names its row; O5 reads the "Encoding" lines as encoded words and is O1 on them. -/

namespace Sys2Proof.Machine

/-- A machine-code call decodes to itself, since 00E0 and 00EE are not well-formed ones (R104). -/
theorem decode_encode_sys {nnn : Addr12} (h : (Instr.sys nnn).wellFormed = true) :
    decode (encodeNNN 0x0 nnn) = .known (.sys nnn) := by
  have hne : nnn ≠ 0x0E0 ∧ nnn ≠ 0x0EE := by simpa [Instr.wellFormed] using h
  have hcls : encodeNNN 0x0 nnn ≠ 0x00E0 := fun e => hne.1 ((fieldNNN_encodeNNN 0x0 nnn).symm.trans (congrArg fieldNNN e))
  have hret : encodeNNN 0x0 nnn ≠ 0x00EE := fun e => hne.2 ((fieldNNN_encodeNNN 0x0 nnn).symm.trans (congrArg fieldNNN e))
  rw [decode, fieldC_encodeNNN]
  exact (if_neg hcls).trans ((if_neg hret).trans (by rw [fieldNNN_encodeNNN]))

/-- Every well-formed instruction decodes from its own encoding. -/
theorem decode_encode {i : Instr} (h : i.wellFormed = true) : decode (encode i) = .known i := by
  cases i with
  | cls | ret => rfl
  | sys nnn => exact decode_encode_sys h
  | jp | call | ldI | jpV0 => simp [encode, decode]
  | seVxNn | sneVxNn | ldVxNn | addVxNn | rnd => simp [encode, decode]
  | seVxVy | sneVxVy => simp [encode, decode, decodeNZero]
  | drw => simp [encode, decode]
  | skp | sknp => simp [encode, decode, decodeClassE]
  | ldVxDt | ldVxK | ldDtVx | ldStVx | addIVx | ldFVx | ldBVx | ldMemIVx | ldVxMemI => simp [encode, decode, decodeClassF]
  | _ => simp [encode, decode, decodeClass8]

/-- The number an "Encoding" line writes decodes to the instruction when it is the instruction's encoded word. -/
theorem encodedAs_of_eq_encode {op : Nat} {i : Instr} (hi : i.wellFormed = true) (h : BitVec.ofNat 16 op = encode i) :
    EncodedAs op i :=
  (congrArg decode h).trans (decode_encode hi)

/-- The number of DXYN's "Encoding" line, whose nibble N stands last, is the encoded word. -/
theorem ofNat_eq_encodeXYN_operands_last (c x y n : Nibble) :
    BitVec.ofNat 16 (c.toNat * 4096 + x.toNat * 256 + y.toNat * 16 + n.toNat) = encodeXYN c x y n := by
  rw [← encodeXYN_toNat, BitVec.ofNat_toNat, BitVec.setWidth_eq]

/-- Formats NNN: the row is the class. -/
theorem encodedAs_encodeNNN {i : Instr} (c : Nibble) (nnn : Addr12) (hi : i.wellFormed = true) (h : encode i = encodeNNN c nnn) :
    EncodedAs (c.toNat * 4096 + nnn.toNat) i :=
  encodedAs_of_eq_encode hi ((ofNat_eq_encodeNNN c nnn).trans h.symm)

/-- Formats XNN: the row is the class. -/
theorem encodedAs_encodeXNN {i : Instr} (c x : Nibble) (nn : Byte) (hi : i.wellFormed = true) (h : encode i = encodeXNN c x nn) :
    EncodedAs (c.toNat * 4096 + x.toNat * 256 + nn.toNat) i :=
  encodedAs_of_eq_encode hi ((ofNat_eq_encodeXNN c x nn).trans h.symm)

/-- Classes E and F: the row is the class with NN. -/
theorem encodedAs_encodeXNN_row {i : Instr} (c x : Nibble) (nn : Byte) (hi : i.wellFormed = true)
    (h : encode i = encodeXNN c x nn) : EncodedAs (c.toNat * 4096 + nn.toNat + x.toNat * 256) i :=
  encodedAs_of_eq_encode hi ((ofNat_eq_encodeXNN_constants_first c x nn).trans h.symm)

/-- Classes 5, 8 and 9: the row is the class with N. -/
theorem encodedAs_encodeXYN_row {i : Instr} (c x y n : Nibble) (hi : i.wellFormed = true) (h : encode i = encodeXYN c x y n) :
    EncodedAs (c.toNat * 4096 + n.toNat + x.toNat * 256 + y.toNat * 16) i :=
  encodedAs_of_eq_encode hi ((ofNat_eq_encodeXYN c x y n).trans h.symm)

theorem encodedAs_sys {nnn : Addr12} (h1 : nnn ≠ 0x0E0) (h2 : nnn ≠ 0x0EE) : EncodedAs (0x0000 + nnn.toNat) (.sys nnn) :=
  encodedAs_encodeNNN 0x0 nnn (by simpa [Instr.wellFormed] using And.intro h1 h2) rfl

theorem encodedAs_drw (x y : RegIdx) (n : Nibble) :
    EncodedAs (0xD000 + x.toNat * 256 + y.toNat * 16 + n.toNat) (.drw x y n) :=
  encodedAs_of_eq_encode rfl (ofNat_eq_encodeXYN_operands_last 0xD x y n)

end Sys2Proof.Machine

open Sys2Proof.Machine

/-- Settles O1, by the class of the instruction. -/
theorem decodeOfEncode : Obligations.DecodeOfEncode := fun _ => decode_encode

/-- Settles O5: each "Encoding" line is the encoded word of its format, so O1 reads it. -/
theorem encodingsOfEveryRule : Obligations.EncodingsOfEveryRule := fun nnn x y nn n =>
  ⟨encodedAs_cls, rfl, encodedAs_sys,
    encodedAs_encodeNNN 0x1 nnn rfl rfl, encodedAs_encodeNNN 0x2 nnn rfl rfl,
    encodedAs_encodeXNN 0x3 x nn rfl rfl, encodedAs_encodeXNN 0x4 x nn rfl rfl, encodedAs_encodeXYN_row 0x5 x y 0x0 rfl rfl,
    encodedAs_encodeXNN 0x6 x nn rfl rfl, encodedAs_encodeXNN 0x7 x nn rfl rfl,
    encodedAs_encodeXYN_row 0x8 x y 0x0 rfl rfl, encodedAs_encodeXYN_row 0x8 x y 0x1 rfl rfl,
    encodedAs_encodeXYN_row 0x8 x y 0x2 rfl rfl, encodedAs_encodeXYN_row 0x8 x y 0x3 rfl rfl,
    encodedAs_encodeXYN_row 0x8 x y 0x4 rfl rfl, encodedAs_encodeXYN_row 0x8 x y 0x5 rfl rfl,
    encodedAs_encodeXYN_row 0x8 x y 0x6 rfl rfl, encodedAs_encodeXYN_row 0x8 x y 0x7 rfl rfl,
    encodedAs_encodeXYN_row 0x8 x y 0xE rfl rfl, encodedAs_encodeXYN_row 0x8 x y 0x8 rfl rfl,
    encodedAs_encodeXYN_row 0x8 x y 0x9 rfl rfl, encodedAs_encodeXYN_row 0x8 x y 0xA rfl rfl,
    encodedAs_encodeXYN_row 0x8 x y 0xB rfl rfl, encodedAs_encodeXYN_row 0x8 x y 0xC rfl rfl,
    encodedAs_encodeXYN_row 0x8 x y 0xD rfl rfl, encodedAs_encodeXYN_row 0x8 x y 0xF rfl rfl,
    encodedAs_encodeXYN_row 0x9 x y 0x0 rfl rfl,
    encodedAs_encodeNNN 0xA nnn rfl rfl, encodedAs_encodeNNN 0xB nnn rfl rfl,
    encodedAs_encodeXNN 0xC x nn rfl rfl, encodedAs_drw x y n,
    encodedAs_encodeXNN_row 0xE x 0x9E rfl rfl, encodedAs_encodeXNN_row 0xE x 0xA1 rfl rfl,
    encodedAs_encodeXNN_row 0xF x 0x07 rfl rfl, encodedAs_encodeXNN_row 0xF x 0x0A rfl rfl,
    encodedAs_encodeXNN_row 0xF x 0x15 rfl rfl, encodedAs_encodeXNN_row 0xF x 0x18 rfl rfl,
    encodedAs_encodeXNN_row 0xF x 0x1E rfl rfl, encodedAs_encodeXNN_row 0xF x 0x29 rfl rfl,
    encodedAs_encodeXNN_row 0xF x 0x33 rfl rfl, encodedAs_encodeXNN_row 0xF x 0x55 rfl rfl,
    encodedAs_encodeXNN_row 0xF x 0x65 rfl rfl⟩
end

section
/-! PROOFS. O2, O3, O4 (R102 to R105). The other direction: a word is put together again from its class and its other fields, so a
row that keeps them all keeps the word; and the decoder's own tests say which words match no row. -/

namespace Sys2Proof.Machine

/-! ### A word is its fields -/

theorem encodeNNN_of_fieldC {op : Word} {c : Nibble} (hc : fieldC op = c) : encodeNNN c (fieldNNN op) = op := by
  apply BitVec.eq_of_toNat_eq
  have hop := op.isLt
  rw [← hc, encodeNNN_toNat, fieldC_toNat, fieldNNN_toNat]
  omega

theorem encodeXNN_of_fieldC {op : Word} {c : Nibble} (hc : fieldC op = c) : encodeXNN c (fieldX op) (fieldNN op) = op := by
  apply BitVec.eq_of_toNat_eq
  have hop := op.isLt
  rw [← hc, encodeXNN_toNat, fieldC_toNat, fieldX_toNat, fieldNN_toNat]
  omega

theorem encodeXYN_of_fieldC {op : Word} {c : Nibble} (hc : fieldC op = c) :
    encodeXYN c (fieldX op) (fieldY op) (fieldN op) = op := by
  apply BitVec.eq_of_toNat_eq
  have hop := op.isLt
  rw [← hc, encodeXYN_toNat, fieldC_toNat, fieldX_toNat, fieldY_toNat, fieldN_toNat]
  omega

/-- The word whose class and NN are a row of class E or F. -/
theorem encodeXNN_of_fields {op : Word} {c : Nibble} {nn : Byte} (hc : fieldC op = c) (hnn : fieldNN op = nn) :
    encodeXNN c (fieldX op) nn = op :=
  hnn ▸ encodeXNN_of_fieldC hc

/-- The word whose class and N are a row of class 5, 8 or 9. -/
theorem encodeXYN_of_fields {op : Word} {c n : Nibble} (hc : fieldC op = c) (hn : fieldN op = n) :
    encodeXYN c (fieldX op) (fieldY op) n = op :=
  hn ▸ encodeXYN_of_fieldC hc

/-! ### Each class drops no bit -/

theorem encode_decodeClass0 {op : Word} {i : Instr} (hc : fieldC op = 0x0) (h : decodeClass0 op = .known i) :
    encode i = op ∧ i.wellFormed = true := by
  have hop : encodeNNN 0x0 (fieldNNN op) = op := encodeNNN_of_fieldC hc
  unfold decodeClass0 at h
  split at h
  · rename_i hcls; cases h; exact ⟨hcls.symm, rfl⟩
  · rename_i hcls
    split at h
    · rename_i hret; cases h; exact ⟨hret.symm, rfl⟩
    · rename_i hret
      cases h
      refine ⟨hop, ?_⟩
      have h1 : fieldNNN op ≠ 0x0E0 := fun e => hcls (by rw [← hop, e]; rfl)
      have h2 : fieldNNN op ≠ 0x0EE := fun e => hret (by rw [← hop, e]; rfl)
      simpa [Instr.wellFormed] using And.intro h1 h2

theorem encode_decodeNZero {op : Word} {i j : Instr} (hj : fieldN op = 0 → encode j = op ∧ j.wellFormed = true)
    (h : decodeNZero op j = .known i) : encode i = op ∧ i.wellFormed = true := by
  unfold decodeNZero at h
  split at h
  · rename_i hn; cases h; exact hj hn
  · cases h

theorem encode_decodeClass8 {op : Word} (hc : fieldC op = 0x8) :
    encode (decodeClass8 op) = op ∧ (decodeClass8 op).wellFormed = true := by
  unfold decodeClass8
  split
  case h_16 =>
    have hn : fieldN op = 0xF := by simp only [imp_false] at *; bv_omega
    exact ⟨encodeXYN_of_fields hc hn, rfl⟩
  all_goals
    rename_i hn
    exact ⟨encodeXYN_of_fields hc hn, rfl⟩

theorem encode_decodeClassE {op : Word} {i : Instr} (hc : fieldC op = 0xE) (h : decodeClassE op = .known i) :
    encode i = op ∧ i.wellFormed = true := by
  unfold decodeClassE at h
  split at h <;> cases h
  all_goals
    rename_i hnn
    exact ⟨encodeXNN_of_fields hc hnn, rfl⟩

theorem encode_decodeClassF {op : Word} {i : Instr} (hc : fieldC op = 0xF) (h : decodeClassF op = .known i) :
    encode i = op ∧ i.wellFormed = true := by
  unfold decodeClassF at h
  split at h <;> cases h
  all_goals
    rename_i hnn
    exact ⟨encodeXNN_of_fields hc hnn, rfl⟩

/-- Every opcode that decodes to an instruction is its encoding. -/
theorem encode_decode {op : Word} {i : Instr} (h : decode op = .known i) : encode i = op ∧ i.wellFormed = true := by
  unfold decode at h
  split at h
  case h_16 =>
    have hc : fieldC op = 0xF := by simp only [imp_false] at *; bv_omega
    exact encode_decodeClassF hc h
  all_goals rename_i hc
  case h_1 => exact encode_decodeClass0 hc h
  case h_9 => cases h; exact encode_decodeClass8 hc
  case h_6 => exact encode_decodeNZero (j := .seVxVy _ _) (fun hn => ⟨encodeXYN_of_fields hc hn, rfl⟩) h
  case h_10 => exact encode_decodeNZero (j := .sneVxVy _ _) (fun hn => ⟨encodeXYN_of_fields hc hn, rfl⟩) h
  case h_15 => exact encode_decodeClassE hc h
  case h_2 | h_3 | h_11 | h_12 => cases h; exact ⟨encodeNNN_of_fieldC hc, rfl⟩
  case h_14 => cases h; exact ⟨encodeXYN_of_fieldC hc, rfl⟩
  all_goals cases h; exact ⟨encodeXNN_of_fieldC hc, rfl⟩

/-! ### The opcodes that match no row -/

/-- The list of R105, by the fields of the opcode. -/
def NoRow (op : Word) : Prop :=
  ((fieldC op = 0x5 ∨ fieldC op = 0x9) ∧ fieldN op ≠ 0) ∨
  (fieldC op = 0xE ∧ fieldNN op ∉ [0x9E, 0xA1]) ∨
  (fieldC op = 0xF ∧ fieldNN op ∉ [0x07, 0x0A, 0x15, 0x18, 0x1E, 0x29, 0x33, 0x55, 0x65])

theorem decodeClass0_ne_unknown (op op' : Word) : decodeClass0 op ≠ .unknown op' := by
  unfold decodeClass0
  split
  · simp
  · split <;> simp

theorem decodeNZero_eq_unknown (op op' : Word) (i : Instr) :
    decodeNZero op i = .unknown op' ↔ op' = op ∧ fieldN op ≠ 0 := by
  unfold decodeNZero
  split <;> simp_all [eq_comm]

theorem decodeClassE_eq_unknown (op op' : Word) :
    decodeClassE op = .unknown op' ↔ op' = op ∧ fieldNN op ∉ [0x9E, 0xA1] := by
  unfold decodeClassE
  split <;> simp_all [eq_comm]

theorem decodeClassF_eq_unknown (op op' : Word) :
    decodeClassF op = .unknown op' ↔
      op' = op ∧ fieldNN op ∉ [0x07, 0x0A, 0x15, 0x18, 0x1E, 0x29, 0x33, 0x55, 0x65] := by
  unfold decodeClassF
  split <;> simp_all [eq_comm]

theorem decode_eq_unknown (op op' : Word) : decode op = .unknown op' ↔ op' = op ∧ NoRow op := by
  unfold decode
  split
  case h_16 =>
    have hc : fieldC op = 0xF := by simp only [imp_false] at *; bv_omega
    simp [NoRow, hc, decodeClassF_eq_unknown]
  all_goals rename_i hc
  case h_1 => simp [NoRow, hc, decodeClass0_ne_unknown]
  case h_6 | h_10 => simp [NoRow, hc, decodeNZero_eq_unknown]
  case h_15 => simp [NoRow, hc, decodeClassE_eq_unknown]
  all_goals simp [NoRow, hc]

/-- The list of R105 by the number of the opcode. -/
theorem noRow_iff (op : Word) : NoRow op ↔
    ((op.toNat / 4096 = 0x5 ∨ op.toNat / 4096 = 0x9) ∧ op.toNat % 16 ≠ 0) ∨
    (op.toNat / 4096 = 0xE ∧ op.toNat % 256 ∉ [0x9E, 0xA1]) ∨
    (op.toNat / 4096 = 0xF ∧ op.toNat % 256 ∉ [0x07, 0x0A, 0x15, 0x18, 0x1E, 0x29, 0x33, 0x55, 0x65]) := by
  simp [NoRow, ← BitVec.toNat_inj, fieldC_toNat, fieldN_toNat, fieldNN_toNat]

end Sys2Proof.Machine

open Sys2Proof.Machine

/-- Settles O2, by the class of the opcode. -/
theorem encodeOfDecode : Obligations.EncodeOfDecode := fun _ _ => encode_decode

/-- Settles O3: the decoder's tests, class by class, are the list of R105. -/
theorem unknownOpcodesExactly : Obligations.UnknownOpcodesExactly :=
  ⟨fun op op' h => ((decode_eq_unknown op op').1 h).1,
    fun op => (decode_eq_unknown op op).trans ((and_iff_right rfl).trans (noRow_iff op))⟩

/-- Settles O4, by running the decoder on the ten words. -/
theorem writtenWordsDecode : Obligations.WrittenWordsDecode := by
  unfold Obligations.WrittenWordsDecode
  decide
end

section
/-! PROOFS. Rules that several of the proofs below cite: each instruction as an equation, and what each body that can raise
answers when it ends well and when it raises. -/

namespace Sys2Proof.Machine

/-! ### The instructions that end well always -/

theorem exec_jpV0 (s : State) (nnn : Addr12) :
    exec (.jpV0 nnn) s = .next (s.setPc (zextByte (s.V 0x0) + zextAddr nnn)) := rfl

theorem exec_seVxVy (s : State) (x y : RegIdx) :
    exec (.seVxVy x y) s = .next (s.advance.skipIf (s.V x == s.V y)) := rfl

theorem exec_sneVxVy (s : State) (x y : RegIdx) :
    exec (.sneVxVy x y) s = .next (s.advance.skipIf (s.V x != s.V y)) := rfl

theorem exec_addVxVy (s : State) (x y : RegIdx) :
    exec (.addVxVy x y) s = .next (s.advance.setResultAndFlag x (aluAdd (s.V x) (s.V y))) := rfl

theorem exec_sub (s : State) (x y : RegIdx) :
    exec (.sub x y) s = .next (s.advance.setResultAndFlag x (aluSub (s.V x) (s.V y))) := rfl

theorem exec_subn (s : State) (x y : RegIdx) :
    exec (.subn x y) s = .next (s.advance.setResultAndFlag x (aluSub (s.V y) (s.V x))) := rfl

theorem exec_shr (s : State) (x y : RegIdx) :
    exec (.shr x y) s = .next (s.advance.setResultAndFlag x (aluShr (s.V x))) := rfl

theorem exec_shl (s : State) (x y : RegIdx) :
    exec (.shl x y) s = .next (s.advance.setResultAndFlag x (aluShl (s.V x))) := rfl

theorem exec_rnd (s : State) (x : RegIdx) (nn : Byte) :
    exec (.rnd x nn) s = .next (s.advance.setV x (Config.draw s.draws &&& nn)).bumpDraws := rfl

theorem exec_addIVx (s : State) (x : RegIdx) :
    exec (.addIVx x) s = .next (s.advance.setI (s.iReg + zextByte (s.V x))) := rfl

theorem exec_ldVxK (s : State) (x : RegIdx) : exec (.ldVxK x) s = .next (s.advance.waitKey x) := rfl

/-- With no key held PC goes back by what it was advanced: the wait changes nothing. -/
theorem exec_ldVxK_of_none {s : State} (x : RegIdx) (h : s.firstHeld = none) : exec (.ldVxK x) s = .next s := by
  have hwait : s.advance.waitKey x = s.setPc (s.pc + 2 - 2) := by
    rw [State.waitKey, State.firstHeld_advance, h]
    rfl
  have hpc : s.pc + 2 - 2 = s.pc := by bv_omega
  rw [exec_ldVxK, hwait, hpc]
  rfl

theorem exec_ldVxK_of_some {s : State} {k : Nat} (x : RegIdx) (h : s.firstHeld = some k) :
    exec (.ldVxK x) s = .next (s.advance.setV x (BitVec.ofNat 8 k)) := by
  rw [exec_ldVxK, State.waitKey, State.firstHeld_advance, h]

/-! ### The instructions that can raise -/

theorem exec_ret (s : State) : exec .ret s = s.commit (encode .ret) s.advance.returnToCaller := rfl

theorem exec_call (s : State) (nnn : Addr12) :
    exec (.call nnn) s = s.commit (encode (.call nnn)) (s.advance.callTo Params.stackDepth nnn) := rfl

theorem exec_skp (s : State) (x : RegIdx) :
    exec (.skp x) s = s.commit (encode (.skp x)) (s.advance.skipOnKey true (s.V x)) := rfl

theorem exec_sknp (s : State) (x : RegIdx) :
    exec (.sknp x) s = s.commit (encode (.sknp x)) (s.advance.skipOnKey false (s.V x)) := rfl

theorem exec_ldBVx (s : State) (x : RegIdx) :
    exec (.ldBVx x) s = s.commit (encode (.ldBVx x)) (s.advance.writeBytes s.iReg.toNat (bcdDigits (s.V x))) := rfl

theorem exec_ldMemIVx (s : State) (x : RegIdx) :
    exec (.ldMemIVx x) s = s.commit (encode (.ldMemIVx x)) (s.advance.writeBytes s.iReg.toNat (s.regsUpTo x)) := rfl

/-! ### The instructions that can raise, by what is in range -/

/-- The n bytes from I. -/
def State.bytesAtI (s : State) (n : Nat) : List Byte := (List.range n).map fun k => s.mem.byte (s.iReg.toNat + k)

@[simp] theorem State.bytesAtI_length (s : State) (n : Nat) : (s.bytesAtI n).length = n := by
  simp [State.bytesAtI]

theorem State.bytesAtI_getD (s : State) {n k : Nat} (h : k < n) : (s.bytesAtI n).getD k 0 = s.mem.byte (s.iReg.toNat + k) := by
  simp [State.bytesAtI, h]

theorem exec_drw_in_range {s : State} {n : Nibble} (x y : RegIdx) (h : n.toNat = 0 ∨ s.iReg.toNat + n.toNat ≤ 4096) :
    exec (.drw x y n) s = .next
      ((s.advance.setDisp (s.disp.drawSprite (s.V x).toNat (s.V y).toNat (s.bytesAtI n.toNat)).1).setV 0xF
        (flagByte (s.disp.drawSprite (s.V x).toNat (s.V y).toNat (s.bytesAtI n.toNat)).2)) :=
  congrArg (s.commit _) ((s.advance.drawFrom_eq (s.V x) (s.V y) n).trans (if_pos h))

theorem exec_drw_out_of_range {s : State} {n : Nibble} (x y : RegIdx) (h : ¬ (n.toNat = 0 ∨ s.iReg.toNat + n.toNat ≤ 4096)) :
    exec (.drw x y n) s = .next (s.takeFault (some (encode (.drw x y n))) (.memoryAddress (max s.iReg.toNat 4096))) :=
  congrArg (s.commit _) ((s.advance.drawFrom_eq (s.V x) (s.V y) n).trans (if_neg h))

theorem exec_ldVxMemI_in_range {s : State} {x : RegIdx} (h : s.iReg.toNat + x.toNat < 4096) :
    exec (.ldVxMemI x) s = .next (s.advance.setVs 0 (s.bytesAtI (x.toNat + 1))) :=
  congrArg (s.commit _) ((s.advance.loadRegs_eq x).trans (if_pos h))

theorem exec_ldVxMemI_out_of_range {s : State} {x : RegIdx} (h : ¬ s.iReg.toNat + x.toNat < 4096) :
    exec (.ldVxMemI x) s =
      .next (s.takeFault (some (encode (.ldVxMemI x))) (.memoryAddress (max s.iReg.toNat 4096))) :=
  congrArg (s.commit _) ((s.advance.loadRegs_eq x).trans (if_neg h))

theorem exec_ldMemIVx_in_range {s : State} {x : RegIdx} (h : s.iReg.toNat + x.toNat < 4096) :
    exec (.ldMemIVx x) s = .next (s.advance.setMem (s.mem.putBytes s.iReg.toNat (s.regsUpTo x))) := by
  have hin : s.regsUpTo x = [] ∨ s.iReg.toNat + (s.regsUpTo x).length ≤ 4096 := by
    rw [State.regsUpTo_length]
    exact .inr h
  rw [exec_ldMemIVx, State.writeBytes_eq, if_pos hin]
  rfl

theorem exec_ldMemIVx_out_of_range {s : State} {x : RegIdx} (h : ¬ s.iReg.toNat + x.toNat < 4096) :
    exec (.ldMemIVx x) s =
      .next (s.takeFault (some (encode (.ldMemIVx x))) (.memoryAddress (max s.iReg.toNat 4096))) := by
  have hout : ¬ (s.regsUpTo x = [] ∨ s.iReg.toNat + (s.regsUpTo x).length ≤ 4096) := by
    rw [← List.length_eq_zero_iff, State.regsUpTo_length]
    omega
  rw [exec_ldMemIVx, State.writeBytes_eq, if_neg hout]
  rfl

theorem exec_ldBVx_in_range {s : State} (x : RegIdx) (h : s.iReg.toNat + 2 < 4096) :
    exec (.ldBVx x) s = .next (s.advance.setMem (s.mem.putBytes s.iReg.toNat (bcdDigits (s.V x)))) := by
  rw [exec_ldBVx, State.writeBytes_eq, if_pos (.inr h)]
  rfl

theorem exec_ldBVx_out_of_range {s : State} (x : RegIdx) (h : ¬ s.iReg.toNat + 2 < 4096) :
    exec (.ldBVx x) s = .next (s.takeFault (some (encode (.ldBVx x))) (.memoryAddress (max s.iReg.toNat 4096))) := by
  have hout : ¬ (bcdDigits (s.V x) = [] ∨ s.iReg.toNat + (bcdDigits (s.V x)).length ≤ 4096) :=
    not_or_intro (List.cons_ne_nil _ _) h
  rw [exec_ldBVx, State.writeBytes_eq, if_neg hout]
  rfl

/-! ### How such an instruction ends -/

/-- What holds of every state its body answers, and of every fault taken, holds of the next state. -/
theorem State.commit_rule {s t : State} {op : Word} {e : Except Fault State} {Q : State → Prop} (h : s.commit op e = .next t)
    (hok : ∀ u, e = .ok u → Q u) (herr : ∀ f, e = .error f → Q (s.takeFault (some op) f)) : Q t := by
  rcases State.commit_cases s op e t h with he | ⟨f, he, rfl⟩
  · exact hok t he
  · exact herr f he

/-! ### Bodies that end well -/

theorem State.writeBytes_ok_inv {s t : State} {a : Nat} {bs : List Byte} (h : s.writeBytes a bs = .ok t) :
    (bs = [] ∨ a + bs.length ≤ 4096) ∧ t = s.setMem (s.mem.putBytes a bs) := by
  rw [State.writeBytes_eq] at h
  split at h
  · rename_i hlen; cases h; exact ⟨hlen, rfl⟩
  · cases h

theorem State.loadRegs_ok_inv {s t : State} {x : RegIdx} (h : s.loadRegs x = .ok t) :
    s.iReg.toNat + (x.toNat + 1) ≤ 4096 ∧
      t = s.setVs 0 ((List.range (x.toNat + 1)).map fun k => s.mem.byte (s.iReg.toNat + k)) := by
  rw [State.loadRegs_eq] at h
  split at h
  · rename_i hlen; cases h; exact ⟨hlen, rfl⟩
  · cases h

/-- A draw that ends well writes the display and VF. -/
theorem State.drawFrom_ok_inv {s t : State} {cx cy : Byte} {n : Nibble} (h : s.drawFrom cx cy n = .ok t) :
    ∃ d b, t = (s.setDisp d).setV 0xF b := by
  rw [State.drawFrom_eq] at h
  split at h
  · cases h; exact ⟨_, _, rfl⟩
  · cases h

/-- A key skip that ends well writes PC. -/
theorem State.skipOnKey_ok_inv {s t : State} {held : Bool} {k : Byte} (h : s.skipOnKey held k = .ok t) :
    ∃ w, t = s.setPc w := by
  rw [State.skipOnKey_eq] at h
  split at h
  · cases h; exact ⟨_, s.skipIf_eq _⟩
  · cases h

/-! ### Bodies that raise: the datum of the fault is what R321 says of it -/

/-- What R321 says of a fault's datum: an address out of range, below 2^17; a key value of 16 or more. -/
def Fault.Sound : Fault → Prop
  | .memoryAddress a => 4096 ≤ a ∧ a < 2 ^ 17
  | .keyIndex k => 16 ≤ k.toNat
  | _ => True

theorem Fault.sound_lowest_address (w : Word) : (Fault.memoryAddress (max w.toNat 4096)).Sound := by
  have hw := w.isLt
  show 4096 ≤ max w.toNat 4096 ∧ max w.toNat 4096 < 2 ^ 17
  omega

theorem State.memRead_error_sound {s : State} {a : Nat} {f : Fault} (ha : a < 2 ^ 17) (h : s.memRead a = .error f) :
    f.Sound := by
  rw [State.memRead_eq] at h
  split at h
  · cases h
  · rename_i hlt; cases h; exact ⟨Nat.le_of_not_lt hlt, ha⟩

theorem State.memWrite_error_sound {s : State} {a : Nat} {b : Byte} {f : Fault} (ha : a < 2 ^ 17)
    (h : s.memWrite a b = .error f) : f.Sound := by
  rw [State.memWrite_eq] at h
  split at h
  · cases h
  · rename_i hlt; cases h; exact ⟨Nat.le_of_not_lt hlt, ha⟩

theorem State.push_error_sound {s : State} {depth : Nat} {w : Word} {f : Fault} (h : s.push depth w = .error f) : f.Sound := by
  have hsp := s.sp.isLt
  unfold State.push at h
  split at h
  · cases h; trivial
  · split at h
    · rename_i hw; cases h; exact State.memWrite_error_sound (by omega) hw
    · split at h
      · rename_i hw; cases h; exact State.memWrite_error_sound (by omega) hw
      · cases h

theorem State.pop_error_sound {s : State} {f : Fault} (h : s.pop = .error f) : f.Sound := by
  have hsp := s.sp.isLt
  unfold State.pop at h
  split at h
  · cases h; trivial
  · split at h
    · rename_i hr; cases h; exact State.memRead_error_sound (by omega) hr
    · split at h
      · rename_i hr; cases h; exact State.memRead_error_sound (by omega) hr
      · cases h

theorem State.callTo_error_sound {s : State} {depth : Nat} {nnn : Addr12} {f : Fault} (h : s.callTo depth nnn = .error f) :
    f.Sound := by
  unfold State.callTo at h
  split at h
  · rename_i hp; cases h; exact State.push_error_sound hp
  · cases h

theorem State.returnToCaller_error_sound {s : State} {f : Fault} (h : s.returnToCaller = .error f) : f.Sound := by
  unfold State.returnToCaller at h
  split at h
  · rename_i hp; cases h; exact State.pop_error_sound hp
  · cases h

theorem State.writeBytes_error_sound {s : State} {w : Word} {bs : List Byte} {f : Fault}
    (h : s.writeBytes w.toNat bs = .error f) : f.Sound := by
  rw [State.writeBytes_eq] at h
  split at h
  · cases h
  · cases h; exact Fault.sound_lowest_address w

theorem State.loadRegs_error_sound {s : State} {x : RegIdx} {f : Fault} (h : s.loadRegs x = .error f) : f.Sound := by
  rw [State.loadRegs_eq] at h
  split at h
  · cases h
  · cases h; exact Fault.sound_lowest_address s.iReg

theorem State.drawFrom_error_sound {s : State} {cx cy : Byte} {n : Nibble} {f : Fault} (h : s.drawFrom cx cy n = .error f) :
    f.Sound := by
  rw [State.drawFrom_eq] at h
  split at h
  · cases h
  · cases h; exact Fault.sound_lowest_address s.iReg

theorem State.skipOnKey_error_sound {s : State} {held : Bool} {k : Byte} {f : Fault} (h : s.skipOnKey held k = .error f) :
    f.Sound := by
  rw [State.skipOnKey_eq] at h
  split at h
  · cases h
  · rename_i hk; cases h; exact Nat.le_of_not_lt hk

end Sys2Proof.Machine
end

section
/-! PROOFS. O6, O7, O8, O9, O10, O18, O19 (R140 to R148, R64). What a step answers, read off the four cases of
`step_cases`; a state that a step leaves as it is stays under every number of steps. -/

namespace Sys2Proof.Machine

/-! ### What a step answers -/

theorem step_of_runs {s : State} {i : Instr} (h : Runs s i) : step s = exec i s := by
  obtain ⟨h0, hp, hd⟩ := h
  rw [step_fetched s h0 hp]
  exact congrArg s.runDecoded hd

theorem step_unknown {s : State} {op : Word} (h0 : s.halt = none) (hp : s.pc.toNat + 1 < 4096)
    (hd : decode s.opcodeAt = .unknown op) : step s = .next (s.takeFault (some op) .decodeFailure) := by
  rw [step_fetched s h0 hp, hd]
  rfl

/-- The opcode of `Unknown` is the one the two bytes at PC make. -/
theorem unknown_opcodeAt_toNat {s : State} {op : Word} (hd : decode s.opcodeAt = .unknown op) :
    op.toNat = (s.mem.byte s.pc.toNat).toNat * 256 + (s.mem.byte (s.pc.toNat + 1)).toNat := by
  rw [((decode_eq_unknown _ _).1 hd).1, State.opcodeAt, wordOfBytes_toNat]

theorem State.commit_next (s : State) (op : Word) (e : Except Fault State) : ∃ t, s.commit op e = .next t := by
  cases e with
  | ok u => exact ⟨u, rfl⟩
  | error f => exact ⟨_, rfl⟩

/-- Every instruction answers a next state: those that can raise take their fault. -/
theorem exec_next (i : Instr) (s : State) : ∃ t, exec i s = .next t := by
  cases i with
  | ret | call | drw | skp | sknp | ldBVx | ldMemIVx | ldVxMemI => exact s.commit_next _ _
  | _ => exact ⟨_, rfl⟩

theorem step_next (s : State) : ∃ t, step s = .next t := by
  rcases step_cases s with ⟨-, hs⟩ | ⟨-, -, hs⟩ | ⟨-, -, op, -, hs⟩ | ⟨-, -, i, -, hs⟩
  · exact ⟨_, hs⟩
  · exact ⟨_, hs⟩
  · exact ⟨_, hs⟩
  · exact hs ▸ exec_next i s

theorem stepResult_eq_ok (t : State) : stepResult t = .ok ↔ t.halt = none := by
  unfold stepResult
  split <;> simp_all

theorem stepResult_eq_err (t : State) (r : FaultRecord) : stepResult t = .err r ↔ t.halt = some r := by
  unfold stepResult
  split <;> simp_all

theorem hostCall_step {s t : State} (h : step s = .next t) : hostCall .step s = (t, stepResult t) := by
  simp [hostCall, h]

/-! ### States a step leaves as they are -/

theorem run_succ_of_next {M : Host.Core} {s t : M.State} (h : M.step s = .next t) (n : Nat) : M.run (n + 1) s = M.run n t := by
  rw [Host.Core.run, h]

/-- A state that one step leaves as it is stays under every number of steps. -/
theorem run_fixed {s : State} (h : step s = .next s) (n : Nat) : Host.Core.run core n s = .next s := by
  induction n with
  | zero => rfl
  | succ n ih =>
    exact (run_succ_of_next (M := core) h n).trans ih

theorem State.setPc_self (s : State) : s.setPc s.pc = s := rfl

theorem step_parked {s : State} (h : Parked s) : step s = .next s := by
  obtain ⟨h0, op, nnn, hf, hd, hpc⟩ := h
  unfold step State.cycle
  rw [h0, hf]
  show s.runDecoded (decode op) = .next s
  rw [hd]
  show exec (.jp nnn) s = .next s
  rw [exec_jp, hpc, State.setPc_self]

/-! ### Placing a word -/

/-- The placed word is the opcode at PC. -/
theorem storeOpcode_opcodeAt (s : State) (op : Word) : (s.storeOpcode op).opcodeAt = op := by
  have hpc : (s.storeOpcode op).pc = s.pc := rfl
  have hmem : (s.storeOpcode op).mem = s.mem.putBytes s.pc.toNat [highByte op, lowByte op] := rfl
  rw [State.opcodeAt, hpc, hmem, Memory.byte_putBytes, Memory.byte_putBytes]
  simp

theorem readyToFetch_of_lt {s : State} (h : s.pc.toNat + 1 < 4096) : s.readyToFetch = s.setHalt none :=
  congrArg (State.setHalt · none) (if_pos h)

theorem readyToFetch_of_not_lt {s : State} (h : ¬ s.pc.toNat + 1 < 4096) :
    s.readyToFetch = (s.setPc 0x0200).setHalt none :=
  congrArg (State.setHalt · none) (if_neg h)

/-- Making ready writes PC and HALT alone, PC only where it is out of range. -/
theorem readyToFetch_cases (s : State) :
    ∃ w, s.readyToFetch = (s.setPc w).setHalt none ∧ w.toNat + 1 < 4096 ∧ (s.pc.toNat + 1 < 4096 → w = s.pc) := by
  by_cases h : s.pc.toNat + 1 < 4096
  · exact ⟨s.pc, readyToFetch_of_lt h, h, fun _ => rfl⟩
  · exact ⟨0x0200, readyToFetch_of_not_lt h, by decide, fun h' => absurd h' h⟩

/-- Placing a word writes PC, HALT and the two bytes at PC. -/
theorem withFetchWord_cases (s : State) (nbits w : Nat) :
    ∃ p, s.withFetchWord nbits w = ((s.setPc p).setHalt none).storeOpcode (tableWord nbits w) ∧ p.toNat + 1 < 4096 ∧
      (s.pc.toNat + 1 < 4096 → p = s.pc) := by
  obtain ⟨p, hp, hlt, hpc⟩ := readyToFetch_cases s
  exact ⟨p, by rw [State.withFetchWord, hp], hlt, hpc⟩

theorem changesOnly_storeOpcode (s : State) (p op : Word) :
    ChangesOnly [.pc, .mem, .halt] s (((s.setPc p).setHalt none).storeOpcode op) := by
  intro part hpart
  cases part with
  | pc | mem | halt => simp at hpart
  | _ => simp [Part.same, State.storeOpcode]

theorem otherBytesSame_storeOpcode (s : State) (op : Word) : OtherBytesSame s.pc.toNat 2 s (s.storeOpcode op) := by
  intro a ha
  show (s.mem.putBytes s.pc.toNat [highByte op, lowByte op]).byte a = s.mem.byte a
  rw [Memory.byte_putBytes]
  exact if_neg (by simp only [List.length_cons, List.length_nil]; omega)

/-- The instruction of a table word is what the word decodes to. -/
theorem decode_of_decodeTableWord {nbits w : Nat} {i : Instr} (h : decodeTableWord nbits w = some i) :
    decode (tableWord nbits w) = .known i := by
  unfold decodeTableWord decodeBytes at h
  rw [wordOfBytes_high_low] at h
  split at h <;> simp_all

end Sys2Proof.Machine

open Sys2Proof Sys2Proof.Machine

/-- Settles O6: the step fetches the two bytes and runs what they decode to. -/
theorem stepRunsDecodedInstruction : Obligations.StepRunsDecodedInstruction := fun _ _ => step_of_runs

/-- Settles O7: `Unknown` carries the fetched opcode, and the fault of kind 2 is taken. -/
theorem unknownOpcodeFaults : Obligations.UnknownOpcodeFaults := fun _ _ h0 hp hd =>
  ⟨unknown_opcodeAt_toNat hd, step_unknown h0 hp hd⟩

/-- Settles O8, by the fetch fault of the step. -/
theorem fetchPastTheEndFaults : Obligations.FetchPastTheEndFaults := fun s h0 hp =>
  step_fetch_fault s h0 (Nat.succ_le_succ hp)

/-- Settles O9: the step answers a next state, and its HALT is the result of the call. -/
theorem everyStepAnswersNext : Obligations.EveryStepAnswersNext := by
  refine ⟨exec_next, fun s => ?_⟩
  obtain ⟨t, ht⟩ := step_next s
  rw [hostCall_step ht]
  exact ⟨t, ht, rfl, stepResult_eq_ok t, stepResult_eq_err t⟩

/-- Settles O10: a halted state is one that a step leaves as it is. -/
theorem haltIsSticky : Obligations.HaltIsSticky := by
  intro s r n h
  have hs : step s = .next s := step_halted s (by simp [h])
  refine ⟨run_fixed hs n, ?_⟩
  rw [hostCall_step hs, (stepResult_eq_err s r).2 h]

/-- Settles O18: a parked state is one that a step leaves as it is. -/
theorem parkedStateStays : Obligations.ParkedStateStays := fun _ n h => run_fixed (step_parked h) n

/-- Settles O19: the placed word is the opcode at PC, whose two bytes exist and which is not halted. -/
theorem placedWordIsRun : Obligations.PlacedWordIsRun := by
  intro s w i hi
  obtain ⟨p, hplace, hlt, hpc⟩ := withFetchWord_cases s 16 w
  rw [hplace]
  have hd : decode (((s.setPc p).setHalt none).storeOpcode (tableWord 16 w)).opcodeAt = .known i := by
    rw [storeOpcode_opcodeAt, decode_of_decodeTableWord hi]
  have hruns : Runs (((s.setPc p).setHalt none).storeOpcode (tableWord 16 w)) i := ⟨rfl, hlt, hd⟩
  refine ⟨hruns, step_of_runs hruns, changesOnly_storeOpcode s p _, fun hin => ?_⟩
  obtain rfl := hpc hin
  exact ⟨rfl, otherBytesSame_storeOpcode (s.setHalt none) _⟩
end

section
/-! PROOFS. O16. The parts of the state that few instructions write: an instruction that ends well writes its own, and a fault
that is taken writes none of them. -/

namespace Sys2Proof.Machine

/-- Loading registers keeps every part but V. -/
theorem State.setVs_rest (bs : List Byte) (s : State) (k : Nat) :
    (s.setVs k bs).disp = s.disp ∧ (s.setVs k bs).iReg = s.iReg ∧ (s.setVs k bs).sp = s.sp ∧ (s.setVs k bs).mem = s.mem ∧
      (s.setVs k bs).draws = s.draws := by
  obtain ⟨v, hv⟩ := State.setVs_frame bs s k
  rw [hv]
  exact ⟨rfl, rfl, rfl, rfl, rfl⟩

/-- Which instructions have changed which of display, I, SP, memory and the counter of draws on the way from s to t. -/
structure WritersOf (i : Instr) (s t : State) : Prop where
  disp : t.disp ≠ s.disp → i = .cls ∨ ∃ x y n, i = .drw x y n
  iReg : t.iReg ≠ s.iReg → (∃ nnn, i = .ldI nnn) ∨ (∃ x, i = .addIVx x) ∨ ∃ x, i = .ldFVx x
  sp : t.sp ≠ s.sp → i = .ret ∨ ∃ nnn, i = .call nnn
  mem : t.mem ≠ s.mem → (∃ nnn, i = .call nnn) ∨ (∃ x, i = .ldBVx x) ∨ ∃ x, i = .ldMemIVx x
  draws : t.draws ≠ s.draws → ∃ x nn, i = .rnd x nn

/-- Where none of the five has changed, nothing is claimed of the instruction. -/
theorem WritersOf.of_same {s t : State} (i : Instr) (hdisp : t.disp = s.disp) (hi : t.iReg = s.iReg) (hsp : t.sp = s.sp)
    (hmem : t.mem = s.mem) (hdraws : t.draws = s.draws) : WritersOf i s t :=
  ⟨absurd hdisp, absurd hi, absurd hsp, absurd hmem, absurd hdraws⟩

theorem WritersOf.takeFault (i : Instr) (s : State) (op : Option Word) (f : Fault) : WritersOf i s (s.takeFault op f) :=
  .of_same i rfl rfl rfl rfl rfl

/-- An instruction that can raise: what is left is the case that it ends well. -/
theorem WritersOf.of_commit {i : Instr} {s t : State} {op : Word} {e : Except Fault State} (h : s.commit op e = .next t)
    (hok : ∀ u, e = .ok u → WritersOf i s u) : WritersOf i s t :=
  State.commit_rule h hok fun f _ => .takeFault i s (some op) f

theorem exec_writersOf {i : Instr} {s t : State} (h : exec i s = .next t) : WritersOf i s t := by
  cases i with
  | cls =>
    cases h
    exact ⟨fun _ => .inl rfl, absurd rfl, absurd rfl, absurd rfl, absurd rfl⟩
  | ldI nnn =>
    cases h
    exact ⟨absurd rfl, fun _ => .inl ⟨nnn, rfl⟩, absurd rfl, absurd rfl, absurd rfl⟩
  | addIVx x =>
    cases h
    exact ⟨absurd rfl, fun _ => .inr (.inl ⟨x, rfl⟩), absurd rfl, absurd rfl, absurd rfl⟩
  | ldFVx x =>
    cases h
    exact ⟨absurd rfl, fun _ => .inr (.inr ⟨x, rfl⟩), absurd rfl, absurd rfl, absurd rfl⟩
  | rnd x nn =>
    cases h
    exact ⟨absurd rfl, absurd rfl, absurd rfl, absurd rfl, fun _ => ⟨x, nn, rfl⟩⟩
  | drw x y n =>
    refine .of_commit h fun u hu => ?_
    obtain ⟨d, b, rfl⟩ := State.drawFrom_ok_inv hu
    exact ⟨fun _ => .inr ⟨x, y, n, rfl⟩, absurd rfl, absurd rfl, absurd rfl, absurd rfl⟩
  | ret =>
    refine .of_commit h fun u hu => ?_
    obtain ⟨-, -, rfl⟩ := State.returnToCaller_inv _ _ hu
    exact ⟨absurd rfl, absurd rfl, fun _ => .inl rfl, absurd rfl, absurd rfl⟩
  | call nnn =>
    refine .of_commit h fun u hu => ?_
    obtain ⟨-, -, rfl⟩ := State.callTo_inv _ _ _ _ hu
    exact ⟨absurd rfl, absurd rfl, fun _ => .inr ⟨nnn, rfl⟩, fun _ => .inl ⟨nnn, rfl⟩, absurd rfl⟩
  | ldBVx x =>
    refine .of_commit h fun u hu => ?_
    obtain ⟨-, rfl⟩ := State.writeBytes_ok_inv hu
    exact ⟨absurd rfl, absurd rfl, absurd rfl, fun _ => .inr (.inl ⟨x, rfl⟩), absurd rfl⟩
  | ldMemIVx x =>
    refine .of_commit h fun u hu => ?_
    obtain ⟨-, rfl⟩ := State.writeBytes_ok_inv hu
    exact ⟨absurd rfl, absurd rfl, absurd rfl, fun _ => .inr (.inr ⟨x, rfl⟩), absurd rfl⟩
  | ldVxMemI x =>
    refine .of_commit h fun u hu => ?_
    obtain ⟨-, rfl⟩ := State.loadRegs_ok_inv hu
    obtain ⟨hdisp, hi, hsp, hmem, hdraws⟩ := State.setVs_rest _ s.advance 0
    exact .of_same _ hdisp hi hsp hmem hdraws
  | skp x | sknp x =>
    refine .of_commit h fun u hu => ?_
    obtain ⟨w, rfl⟩ := State.skipOnKey_ok_inv hu
    exact .of_same _ rfl rfl rfl rfl rfl
  | seVxNn | sneVxNn | seVxVy | sneVxVy =>
    cases h
    rw [advance_skipIf]
    exact .of_same _ rfl rfl rfl rfl rfl
  | ldVxK x =>
    cases h
    rcases s.advance.waitKey_cases x with ⟨-, hw⟩ | ⟨k, -, hw⟩ <;> rw [hw] <;> exact .of_same _ rfl rfl rfl rfl rfl
  | _ =>
    cases h
    exact .of_same _ rfl rfl rfl rfl rfl

end Sys2Proof.Machine

open Sys2Proof.Machine

/-- Settles O16, instruction by instruction. -/
theorem writersOfEachPart : Obligations.WritersOfEachPart := by
  intro i s t h
  obtain ⟨hdisp, hi, hsp, hmem, hdraws⟩ := exec_writersOf h
  exact ⟨hdisp, hi, hsp, hmem, hdraws⟩
end

section
/-! PROOFS. O11, O12, O13, O14 (R143, R321, R69). An instruction either keeps HALT or has taken a fault from the state it began
in, with a datum that R321 allows. So a faulting step has changed nothing but HALT, and the record clause of the invariant is kept;
for the other two clauses only the writers of memory and of SP are looked at. -/

namespace Sys2Proof.Machine

/-! ### HALT -/

/-- What an instruction does to HALT: nothing, or it takes a fault whose datum is sound and changes nothing else. -/
def HaltOrFault (i : Instr) (s t : State) : Prop :=
  t.halt = s.halt ∨ ∃ f : Fault, f.Sound ∧ t = s.takeFault (some (encode i)) f

theorem HaltOrFault.of_commit {i : Instr} {s t : State} {e : Except Fault State} (h : s.commit (encode i) e = .next t)
    (hok : ∀ u, e = .ok u → u.halt = s.halt) (herr : ∀ f, e = .error f → f.Sound) : HaltOrFault i s t :=
  State.commit_rule h (fun u hu => .inl (hok u hu)) fun f hf => .inr ⟨f, herr f hf, rfl⟩

/-- An instruction that always raises, and one of the faults without a datum. -/
theorem HaltOrFault.of_commit_error {i : Instr} {s t : State} {f : Fault} (hf : f.Sound)
    (h : s.commit (encode i) (.error f) = .next t) : HaltOrFault i s t :=
  .of_commit h (fun _ hu => nomatch hu) fun _ he => Except.error.inj he ▸ hf

theorem State.setVs_halt (bs : List Byte) (s : State) (k : Nat) : (s.setVs k bs).halt = s.halt := by
  obtain ⟨v, hv⟩ := State.setVs_frame bs s k
  rw [hv]

theorem skipOnKey_halt {s u : State} {held : Bool} {k : Byte} (h : s.skipOnKey held k = .ok u) : u.halt = s.halt := by
  obtain ⟨w, rfl⟩ := State.skipOnKey_ok_inv h
  rfl

theorem writeBytes_halt {s u : State} {a : Nat} {bs : List Byte} (h : s.writeBytes a bs = .ok u) : u.halt = s.halt := by
  obtain ⟨-, rfl⟩ := State.writeBytes_ok_inv h
  rfl

theorem exec_haltOrFault {i : Instr} {s t : State} (h : exec i s = .next t) : HaltOrFault i s t := by
  cases i with
  | sys nnn => exact .of_commit_error (f := .unsupportedFeature) trivial h
  | aluUnknown8 | aluUnknown9 | aluUnknownA | aluUnknownB | aluUnknownC | aluUnknownD | aluUnknownF =>
    exact .of_commit_error (f := .unknownAluSubOpcode) trivial h
  | ret =>
    refine .of_commit h (fun u hu => ?_) fun f => State.returnToCaller_error_sound
    obtain ⟨-, -, rfl⟩ := State.returnToCaller_inv _ _ hu
    rfl
  | call nnn =>
    refine .of_commit h (fun u hu => ?_) fun f => State.callTo_error_sound
    obtain ⟨-, -, rfl⟩ := State.callTo_inv _ _ _ _ hu
    rfl
  | drw x y n =>
    refine .of_commit h (fun u hu => ?_) fun f => State.drawFrom_error_sound
    obtain ⟨d, b, rfl⟩ := State.drawFrom_ok_inv hu
    rfl
  | ldVxMemI x =>
    refine .of_commit h (fun u hu => ?_) fun f => State.loadRegs_error_sound
    obtain ⟨-, rfl⟩ := State.loadRegs_ok_inv hu
    exact State.setVs_halt _ s.advance 0
  | ldBVx x | ldMemIVx x =>
    exact .of_commit h (fun u => writeBytes_halt) fun f => State.writeBytes_error_sound
  | skp x | sknp x => exact .of_commit h (fun u => skipOnKey_halt) fun f => State.skipOnKey_error_sound
  | seVxNn | sneVxNn | seVxVy | sneVxVy =>
    cases h
    rw [advance_skipIf]
    exact .inl rfl
  | ldVxK x =>
    cases h
    rcases s.advance.waitKey_cases x with ⟨-, hw⟩ | ⟨k, -, hw⟩ <;> rw [hw] <;> exact .inl rfl
  | _ =>
    cases h
    exact .inl rfl

/-- A step from a state without a fault ends without one, or takes a sound fault; one without an opcode only where the fetch is out
of range. -/
theorem step_halt_cases {s t : State} (h0 : s.halt = none) (h : step s = .next t) :
    t.halt = none ∨ ∃ (op : Option Word) (f : Fault), f.Sound ∧
      (op = none → f.kind = .memoryAddress ∧ 0xFFF ≤ s.pc.toNat) ∧ t = s.takeFault op f := by
  rcases step_cases s with ⟨hh, -⟩ | ⟨-, hp, hs⟩ | ⟨-, -, op, -, hs⟩ | ⟨-, -, i, -, hs⟩
  · exact absurd h0 hh
  · exact .inr ⟨none, _, Fault.sound_lowest_address s.pc, fun _ => ⟨rfl, Nat.le_of_succ_le_succ hp⟩,
      Host.Outcome.next.inj (h.symm.trans hs)⟩
  · exact .inr ⟨some op, .decodeFailure, trivial, fun hop => absurd hop (Option.some_ne_none _), Host.Outcome.next.inj (h.symm.trans hs)⟩
  · rcases exec_haltOrFault (hs.symm.trans h) with hh | ⟨f, hf, ht⟩
    · exact .inl (hh.trans h0)
    · exact .inr ⟨some (encode i), f, hf, fun hop => absurd hop (Option.some_ne_none _), ht⟩

/-! ### The record clause -/

/-- The record of a fault with a sound datum is sound. -/
theorem Fault.record_sound {f : Fault} {pc : Word} {op : Option Word} (hf : f.Sound)
    (hop : op = none → f.kind = .memoryAddress ∧ 0xFFF ≤ pc.toNat) : (f.record pc op).Sound := by
  refine ⟨?_, ?_, hop, ?_, ?_⟩
  · cases f <;> simp [Fault.record, Fault.kind, Fault.addr]
  · cases f <;> simp [Fault.record, Fault.kind, Fault.value]
  · intro a ha
    cases f with
    | memoryAddress b => cases ha; exact hf
    | _ => cases ha
  · intro k hk
    cases f with
    | keyIndex b => cases hk; exact hf
    | _ => cases hk

theorem Inv.takeFault {s : State} {op : Option Word} {f : Fault} (h : Inv s) (hf : f.Sound)
    (hop : op = none → f.kind = .memoryAddress ∧ 0xFFF ≤ s.pc.toNat) : Inv (s.takeFault op f) := by
  refine ⟨h.memory, h.stack, fun r hr => ?_⟩
  cases hr
  exact ⟨rfl, Fault.record_sound hf hop⟩

theorem haltRecordSound_of_none {s : State} (h : s.halt = none) : HaltRecordSound s :=
  fun _ hr => nomatch h.symm.trans hr

/-! ### The clauses on memory and SP -/

/-- CALL's body keeps memory canonical and moves SP down by one entry, with room for it. -/
theorem callTo_keeps_memory_stack {s t : State} {nnn : Addr12} (hm : s.mem.wf = true) (hs : StackInRange s)
    (h : s.callTo Params.stackDepth nnn = .ok t) : t.mem.wf = true ∧ StackInRange t := by
  obtain ⟨k, hk, hsp⟩ := hs
  obtain ⟨hroom, hlt, rfl⟩ := State.callTo_inv _ _ _ _ h
  have hused : (0x0EFF - s.sp.toNat) / 2 < Params.stackDepth := hroom
  have hdepth : Params.stackDepth = 16 := rfl
  refine ⟨Memory.wf_put _ _ _ (Memory.wf_put _ _ _ hm (Nat.lt_of_le_of_lt (Nat.sub_le _ _) hlt)) hlt, k + 1, by omega, ?_⟩
  show (s.sp - 2).toNat + 2 * (k + 1) = 0x0EFF
  bv_omega

/-- RET's body leaves memory and moves SP up by one entry, from a stack that is not empty. -/
theorem returnToCaller_keeps_memory_stack {s t : State} (hm : s.mem.wf = true) (hs : StackInRange s)
    (h : s.returnToCaller = .ok t) : t.mem.wf = true ∧ StackInRange t := by
  obtain ⟨k, hk, hsp⟩ := hs
  obtain ⟨hne, -, rfl⟩ := State.returnToCaller_inv _ _ h
  have hdepth : Params.stackDepth = 16 := rfl
  refine ⟨hm, k - 1, by omega, ?_⟩
  show (s.sp + 2).toNat + 2 * (k - 1) = 0x0EFF
  bv_omega

/-- A store that ends well is inside memory, so it keeps memory canonical. -/
theorem writeBytes_keeps_memory_stack {s t : State} {a : Nat} {bs : List Byte} (hm : s.mem.wf = true) (hs : StackInRange s)
    (h : s.writeBytes a bs = .ok t) : t.mem.wf = true ∧ StackInRange t := by
  obtain ⟨hlen, rfl⟩ := State.writeBytes_ok_inv h
  refine ⟨?_, hs⟩
  rcases hlen with rfl | hlen
  · exact hm
  · exact Memory.wf_putBytes bs s.mem a hm hlen

/-- Only CALL, RET, FX33 and FX55 touch these clauses. -/
theorem exec_keeps_memory_stack {i : Instr} {s t : State} (hm : s.mem.wf = true) (hs : StackInRange s)
    (h : exec i s = .next t) : t.mem.wf = true ∧ StackInRange t := by
  have hw := exec_writersOf h
  by_cases hsame : t.mem = s.mem ∧ t.sp = s.sp
  · rw [hsame.1]
    refine ⟨hm, ?_⟩
    unfold StackInRange
    rw [hsame.2]
    exact hs
  · have hwriter : i = .ret ∨ (∃ nnn, i = .call nnn) ∨ (∃ x, i = .ldBVx x) ∨ ∃ x, i = .ldMemIVx x := by
      rcases not_and_or.1 hsame with hmem | hsp
      · exact .inr (hw.mem hmem)
      · rcases hw.sp hsp with hret | hcall
        · exact .inl hret
        · exact .inr (.inl hcall)
    rcases hwriter with rfl | ⟨nnn, rfl⟩ | ⟨x, rfl⟩ | ⟨x, rfl⟩
    · exact State.commit_rule h (fun u => returnToCaller_keeps_memory_stack hm hs) fun _ _ => ⟨hm, hs⟩
    · exact State.commit_rule h (fun u => callTo_keeps_memory_stack hm hs) fun _ _ => ⟨hm, hs⟩
    · exact State.commit_rule h (fun u => writeBytes_keeps_memory_stack hm hs) fun _ _ => ⟨hm, hs⟩
    · exact State.commit_rule h (fun u => writeBytes_keeps_memory_stack hm hs) fun _ _ => ⟨hm, hs⟩

/-! ### The invariant -/

theorem step_keeps_memory_stack {s t : State} (hm : s.mem.wf = true) (hs : StackInRange s) (h : step s = .next t) :
    t.mem.wf = true ∧ StackInRange t := by
  rcases step_next_cases h with rfl | ⟨op, f, rfl⟩ | ⟨i, -, he⟩
  · exact ⟨hm, hs⟩
  · exact ⟨hm, hs⟩
  · exact exec_keeps_memory_stack hm hs he

theorem step_keeps_inv {s t : State} (hinv : Inv s) (h : step s = .next t) : Inv t := by
  by_cases h0 : s.halt = none
  · rcases step_halt_cases h0 h with hnone | ⟨op, f, hf, hop, rfl⟩
    · obtain ⟨hm, hs⟩ := step_keeps_memory_stack hinv.memory hinv.stack h
      exact ⟨hm, hs, haltRecordSound_of_none hnone⟩
    · exact hinv.takeFault hf hop
  · rw [step_halted s h0] at h
    exact Host.Outcome.next.inj h ▸ hinv

/-! ### The host's calls -/

theorem stackInRange_reset : StackInRange State.reset := ⟨0, Nat.zero_le _, rfl⟩

theorem inv_hostReset (s : State) : Inv (hostReset s) := ⟨Memory.wf_nil, stackInRange_reset, haltRecordSound_of_none rfl⟩

theorem inv_loadProgram {s : State} (h : Inv s) (bytes : List Byte) : Inv (loadProgram bytes s).1 := by
  unfold loadProgram
  split
  · exact h
  · rename_i hlen
    have hfits : Config.programBase + (padProgram bytes).length ≤ Config.memSize := by
      have hmax : (padProgram bytes).length ≤ 0xE00 := Nat.le_of_not_lt hlen
      show 0x200 + (padProgram bytes).length ≤ 0x1000
      omega
    exact ⟨Memory.wf_putBytes _ _ _ h.memory hfits, h.stack, h.record⟩

theorem inv_setKeyState {s : State} (h : Inv s) (index : Nat) (held : Bool) : Inv (setKeyState index held s).1 := by
  unfold setKeyState
  split
  · exact ⟨h.memory, h.stack, h.record⟩
  · exact h

theorem inv_hostCall {s : State} (h : Inv s) (c : HostCall) : Inv (hostCall c s).1 := by
  cases c with
  | reset => exact inv_hostReset s
  | loadProgram bytes => exact inv_loadProgram h bytes
  | step =>
    obtain ⟨t, ht⟩ := step_next s
    rw [hostCall_step ht]
    exact step_keeps_inv h ht
  | tickTimers => exact ⟨h.memory, h.stack, h.record⟩
  | setKeyState index held => exact inv_setKeyState h index held
  | readDisplay | soundActive => exact h

end Sys2Proof.Machine

open Sys2Proof.Machine

/-- Settles O11: the one way for a step to set HALT is to take a fault from the state it began in. -/
theorem faultingStepCommitsNothing : Obligations.FaultingStepCommitsNothing := by
  intro s t r h0 h hr
  rcases step_halt_cases h0 h with hnone | ⟨op, f, -, -, rfl⟩
  · exact nomatch hnone.symm.trans hr
  · cases hr
    exact ⟨rfl, rfl⟩

/-- Settles O12, clause by clause. -/
theorem stepKeepsInvariant : Obligations.StepKeepsInvariant := fun _ _ => step_keeps_inv

/-- Settles O13: reset memory lists nothing, the stack is empty and HALT is none. -/
theorem resetHasInvariant : Obligations.ResetHasInvariant :=
  ⟨⟨inv_hostReset State.reset, rfl⟩, fun s => ⟨inv_hostReset s, rfl⟩⟩

/-- Settles O14, call by call; a call of step() is O12. -/
theorem hostCallsKeepInvariant : Obligations.HostCallsKeepInvariant := fun c _ h => inv_hostCall h c
end

section
/-! PROOFS. O17 (R22). Writes are a frame: each instruction's own writes, and a register outside them. Reads are a comparison of two
runs, one of them with V[r] set to b first: every operand is the same in both, so the two end in states that differ in V[r] alone,
until the instruction itself writes V[r] (`Carries`, which every later write of a register keeps). -/

namespace Sys2Proof.Machine

/-! ### Writes -/

/-- The register load leaves the registers past Vx. -/
theorem State.loadRegs_V_of_lt {s t : State} {x r : RegIdx} (hr : x.toNat < r.toNat) (h : s.loadRegs x = .ok t) :
    t.V r = s.V r := by
  obtain ⟨-, rfl⟩ := State.loadRegs_ok_inv h
  rw [State.V_setVs _ _ _ _ (by simp; omega)]
  exact if_neg (by simp; omega)

/-- A fault that is taken writes no register. -/
theorem V_of_commit {s t : State} {op : Word} {e : Except Fault State} {r : RegIdx} (h : s.commit op e = .next t)
    (hok : ∀ u, e = .ok u → u.V r = s.V r) : t.V r = s.V r :=
  State.commit_rule (Q := fun u => u.V r = s.V r) h hok fun _ _ => rfl

theorem exec_V_of_unwritten {i : Instr} {s t : State} {r : RegIdx} (h : exec i s = .next t) (hw : regWrites i r = false) :
    t.V r = s.V r := by
  cases i with
  | ldVxNn x | addVxNn x | ldVxVy x | or x | and x | xor x | rnd x | ldVxDt x =>
    cases h
    exact State.V_setV_ne s.advance x _ r (by simpa [regWrites] using hw)
  | addVxVy x | sub x | subn x | shr x | shl x =>
    cases h
    obtain ⟨hx, hF⟩ : r ≠ x ∧ r ≠ 0xF := by simpa [regWrites] using hw
    rw [State.V_setResultAndFlag, if_neg hF, if_neg hx, State.V_advance]
  | drw x y n =>
    refine V_of_commit h fun u hu => ?_
    obtain ⟨d, b, rfl⟩ := State.drawFrom_ok_inv hu
    exact State.V_setV_ne _ 0xF b r (by simpa [regWrites] using hw)
  | ldVxK x =>
    cases h
    rcases s.advance.waitKey_cases x with ⟨-, hk⟩ | ⟨k, -, hk⟩ <;> rw [hk]
    · rfl
    · exact State.V_setV_ne s.advance x _ r (by simpa [regWrites] using hw)
  | ldVxMemI x =>
    exact V_of_commit h fun u => State.loadRegs_V_of_lt (by simpa [regWrites] using hw)
  | ret =>
    refine V_of_commit h fun u hu => ?_
    obtain ⟨-, -, rfl⟩ := State.returnToCaller_inv _ _ hu
    rfl
  | call nnn =>
    refine V_of_commit h fun u hu => ?_
    obtain ⟨-, -, rfl⟩ := State.callTo_inv _ _ _ _ hu
    rfl
  | ldBVx x | ldMemIVx x =>
    refine V_of_commit h fun u hu => ?_
    obtain ⟨-, rfl⟩ := State.writeBytes_ok_inv hu
    rfl
  | skp x | sknp x =>
    refine V_of_commit h fun u hu => ?_
    obtain ⟨w, rfl⟩ := State.skipOnKey_ok_inv hu
    rfl
  | seVxNn | sneVxNn | seVxVy | sneVxVy =>
    cases h
    rw [advance_skipIf]
    rfl
  | _ =>
    cases h
    rfl

/-! ### Two register writes -/

theorem State.setV_setV_self (s : State) (r : RegIdx) (a b : Byte) : (s.setV r a).setV r b = s.setV r b := by
  simp [State.setV]

theorem State.setV_comm (s : State) {r x : RegIdx} (h : r ≠ x) (a b : Byte) :
    (s.setV r a).setV x b = (s.setV x b).setV r a := by
  have hne : r.toNat ≠ x.toNat := fun e => h (BitVec.eq_of_toNat_eq e)
  simp [State.setV, Vector.set_comm a b hne]

/-! ### The two runs -/

/-- t and t' are where two runs end that began in s and in s with V[r] set to b: they differ in V[r] alone, which has t's value in
both, or still its first value in each; the latter where the run does not write it. -/
def Carries (written : Prop) (r : RegIdx) (b : Byte) (s t t' : State) : Prop :=
  ∃ v, t' = t.setV r v ∧ (v = t.V r ∨ (v = b ∧ t.V r = s.V r)) ∧ (¬ written → v = b)

variable {p q : Prop} {r : RegIdx} {b : Byte} {s t t' : State}

theorem Carries.mono (hpq : p → q) (h : Carries p r b s t t') : Carries q r b s t t' := by
  obtain ⟨v, ht, hv, hw⟩ := h
  exact ⟨v, ht, hv, fun hq => hw (hq ∘ hpq)⟩

/-- A run that does not write V[r] carries b to the end. -/
theorem Carries.of_kept (ht : t' = t.setV r b) (hr : t.V r = s.V r) : Carries p r b s t t' :=
  ⟨b, ht, .inr ⟨rfl, hr⟩, fun _ => rfl⟩

/-- The same register write in both runs. -/
theorem Carries.setV (x : RegIdx) (c : Byte) (h : Carries p r b s t t') :
    Carries (p ∨ r = x) r b s (t.setV x c) (t'.setV x c) := by
  obtain ⟨v, rfl, hv, hw⟩ := h
  by_cases hx : r = x
  · subst hx
    refine ⟨c, ?_, .inl (t.V_setV_self r c).symm, fun hn => absurd (.inr rfl) hn⟩
    rw [State.setV_setV_self, State.setV_setV_self]
  · refine ⟨v, t.setV_comm hx v c, ?_, fun hn => hw (hn ∘ .inl)⟩
    rw [State.V_setV_ne t x c r hx]
    exact hv

/-- The same register list in both runs. -/
theorem Carries.setVs (bs : List Byte) (k : Nat) (hk : k + bs.length ≤ 16) (h : Carries p r b s t t') :
    Carries (p ∨ (k ≤ r.toNat ∧ r.toNat < k + bs.length)) r b s (t.setVs k bs) (t'.setVs k bs) := by
  induction bs generalizing p t t' k with
  | nil => exact h.mono .inl
  | cons c bs ih =>
    rw [List.length_cons] at hk ⊢
    refine (ih (k + 1) (by omega) (h.setV (regOf k) c)).mono ?_
    rintro ((hp | rfl) | hr)
    · exact .inl hp
    · right
      simp only [regOf, BitVec.toNat_ofNat]
      omega
    · right
      omega

/-- The same draw in both runs. -/
theorem Carries.bumpDraws (h : Carries p r b s t t') : Carries p r b s t.bumpDraws t'.bumpDraws := by
  obtain ⟨v, rfl, hv, hw⟩ := h
  exact ⟨v, rfl, hv, hw⟩

/-- The same advance in both runs. -/
theorem carries_advance (r : RegIdx) (b : Byte) (s : State) : Carries False r b s s.advance (s.setV r b).advance :=
  .of_kept rfl rfl

/-- The same result and flag in both runs. -/
theorem Carries.setResultAndFlag (x : RegIdx) (out : Byte × Bool) (h : Carries p r b s t t') :
    Carries ((p ∨ r = x) ∨ r = 0xF) r b s (t.setResultAndFlag x out) (t'.setResultAndFlag x out) :=
  (h.setV x out.1).setV 0xF (flagByte out.2)

/-- Where the run of an instruction from s with V[r] set to b ends, when the one from s ends in t. -/
def ExecCarries (i : Instr) (r : RegIdx) (b : Byte) (s t : State) : Prop :=
  ∃ t', exec i (s.setV r b) = .next t' ∧ Carries (regWrites i r = true) r b s t t'

theorem ExecCarries.intro {i : Instr} (he : exec i (s.setV r b) = .next t') (h : Carries p r b s t t')
    (hp : p → regWrites i r = true) : ExecCarries i r b s t :=
  ⟨t', he, h.mono hp⟩

/-- An instruction that keeps V[r] and carries b along. -/
theorem ExecCarries.of_kept {i : Instr} (he : exec i (s.setV r b) = .next (t.setV r b)) (hr : t.V r = s.V r) :
    ExecCarries i r b s t :=
  ⟨_, he, .of_kept rfl hr⟩

/-- An instruction that can raise, whose body carries b along. -/
theorem ExecCarries.of_commit {i : Instr} {op : Word} {e e' : Except Fault State} (h : s.commit op e = .next t)
    (he : exec i (s.setV r b) = (s.setV r b).commit op e') (hmap : e' = e.map (·.setV r b)) (hr : t.V r = s.V r) :
    ExecCarries i r b s t := by
  refine .of_kept ?_ hr
  rw [he, hmap]
  cases e with
  | ok u => cases h; rfl
  | error f => cases h; rfl

/-! ### Bodies that read no register carry b along -/

theorem State.skipIf_setV (s : State) (r : RegIdx) (b : Byte) (c : Bool) :
    (s.setV r b).skipIf c = (s.skipIf c).setV r b := by
  cases c <;> rfl

theorem State.memWrite_setV (s : State) (r : RegIdx) (b : Byte) (a : Nat) (c : Byte) :
    (s.setV r b).memWrite a c = (s.memWrite a c).map (·.setV r b) := by
  rw [State.memWrite_eq, State.memWrite_eq]
  split <;> rfl

theorem State.writeBytes_setV (s : State) (r : RegIdx) (b : Byte) (a : Nat) (bs : List Byte) :
    (s.setV r b).writeBytes a bs = (s.writeBytes a bs).map (·.setV r b) := by
  rw [State.writeBytes_eq, State.writeBytes_eq]
  split <;> rfl

theorem State.skipOnKey_setV (s : State) (r : RegIdx) (b : Byte) (held : Bool) (k : Byte) :
    (s.setV r b).skipOnKey held k = (s.skipOnKey held k).map (·.setV r b) := by
  rw [State.skipOnKey_eq, State.skipOnKey_eq, State.keyFlag_setV, State.skipIf_setV]
  split <;> rfl

theorem State.push_setV (s : State) (r : RegIdx) (b : Byte) (depth : Nat) (w : Word) :
    (s.setV r b).push depth w = (s.push depth w).map (·.setV r b) := by
  by_cases h : depth ≤ s.stackUsed
  · rw [State.push_full s depth w h, State.push_full (s.setV r b) depth w h]
    rfl
  · have h' : ¬ (s.setV r b).stackUsed ≥ depth := h
    rw [State.push, State.push, if_neg h, if_neg h', State.setV_sp, State.memWrite_setV]
    cases s.memWrite (s.sp.toNat - 1) (highByte w) with
    | error f => rfl
    | ok s1 =>
      simp only [Except.map, State.memWrite_setV]
      cases s1.memWrite s.sp.toNat (lowByte w) <;> rfl

theorem State.callTo_setV (s : State) (r : RegIdx) (b : Byte) (depth : Nat) (nnn : Addr12) :
    (s.setV r b).callTo depth nnn = (s.callTo depth nnn).map (·.setV r b) := by
  rw [State.callTo, State.callTo, State.push_setV, State.setV_pc]
  cases s.push depth s.pc <;> rfl

theorem State.memRead_setV (s : State) (r : RegIdx) (b : Byte) (a : Nat) : (s.setV r b).memRead a = s.memRead a := rfl

theorem State.pop_setV (s : State) (r : RegIdx) (b : Byte) :
    (s.setV r b).pop = s.pop.map (Prod.map id (·.setV r b)) := by
  rw [State.pop_eq, State.pop_eq, State.setV_sp, State.memRead_setV, State.memRead_setV]
  split
  · rfl
  · cases s.memRead (s.sp.toNat + 1) with
    | error f => rfl
    | ok hi => cases s.memRead (s.sp.toNat + 2) <;> rfl

theorem State.returnToCaller_setV (s : State) (r : RegIdx) (b : Byte) :
    (s.setV r b).returnToCaller = s.returnToCaller.map (·.setV r b) := by
  rw [State.returnToCaller, State.returnToCaller, State.pop_setV]
  cases s.pop <;> rfl

/-- The registers that FX55 stores are equal in two states if each of them is. -/
theorem State.regsUpTo_congr {s u : State} {x : RegIdx} (h : ∀ k : RegIdx, k.toNat ≤ x.toNat → u.V k = s.V k) :
    u.regsUpTo x = s.regsUpTo x := by
  refine List.map_congr_left fun k hk => h (regOf k) ?_
  have hx := x.isLt
  have hlt : k < x.toNat + 1 := List.mem_range.1 hk
  simp only [regOf, BitVec.toNat_ofNat]
  omega

/-! ### The instructions that may write V[r] after other reads -/

theorem drw_execCarries {x y : RegIdx} {n : Nibble} (h : exec (.drw x y n) s = .next t) (hx : (s.setV r b).V x = s.V x)
    (hy : (s.setV r b).V y = s.V y) : ExecCarries (.drw x y n) r b s t := by
  by_cases hin : n.toNat = 0 ∨ s.iReg.toNat + n.toNat ≤ 4096
  · cases (exec_drw_in_range x y hin).symm.trans h
    have he := exec_drw_in_range (s := s.setV r b) x y hin
    rw [hx, hy] at he
    have hdisp : ∀ d, Carries False r b s (s.advance.setDisp d) ((s.setV r b).advance.setDisp d) := fun _ => .of_kept rfl rfl
    exact .intro he ((hdisp _).setV 0xF _) (by simp [regWrites])
  · cases (exec_drw_out_of_range x y hin).symm.trans h
    exact .of_kept (exec_drw_out_of_range x y hin) rfl

theorem ldVxMemI_execCarries {x : RegIdx} (h : exec (.ldVxMemI x) s = .next t) : ExecCarries (.ldVxMemI x) r b s t := by
  by_cases hin : s.iReg.toNat + x.toNat < 4096
  · cases (exec_ldVxMemI_in_range hin).symm.trans h
    have hx := x.isLt
    refine .intro (exec_ldVxMemI_in_range (s := s.setV r b) hin)
      ((carries_advance r b s).setVs _ 0 (by rw [State.bytesAtI_length]; omega)) ?_
    simp [regWrites]
  · cases (exec_ldVxMemI_out_of_range hin).symm.trans h
    exact .of_kept (exec_ldVxMemI_out_of_range hin) rfl

theorem ldVxK_execCarries {x : RegIdx} (h : exec (.ldVxK x) s = .next t) : ExecCarries (.ldVxK x) r b s t := by
  cases hk : s.firstHeld with
  | none =>
    cases (exec_ldVxK_of_none x hk).symm.trans h
    exact .of_kept (exec_ldVxK_of_none x hk) rfl
  | some k =>
    cases (exec_ldVxK_of_some x hk).symm.trans h
    exact .intro (exec_ldVxK_of_some x hk) ((carries_advance r b s).setV x _) (by simp [regWrites])

theorem exec_carries {i : Instr} (h : exec i s = .next t) (hr : regReads i r = false) : ExecCarries i r b s t := by
  have hread : ∀ x, regReads i x = true → (s.setV r b).V x = s.V x := by
    intro x hx
    exact State.V_setV_ne s r b x fun e => by simp [e ▸ hr] at hx
  have hkept : regWrites i r = false → t.V r = s.V r := exec_V_of_unwritten h
  cases i with
  | drw x y n => exact drw_execCarries h (hread x (by simp [regReads])) (hread y (by simp [regReads]))
  | ldVxMemI x => exact ldVxMemI_execCarries h
  | ldVxK x => exact ldVxK_execCarries h
  | ret => exact .of_commit h (exec_ret _) (s.advance.returnToCaller_setV r b) (hkept rfl)
  | call nnn => exact .of_commit h (exec_call _ nnn) (s.advance.callTo_setV r b Params.stackDepth nnn) (hkept rfl)
  | skp x =>
    have hx := hread x (by simp [regReads])
    exact .of_commit h (exec_skp _ x) (hx ▸ s.advance.skipOnKey_setV r b _ _) (hkept rfl)
  | sknp x =>
    have hx := hread x (by simp [regReads])
    exact .of_commit h (exec_sknp _ x) (hx ▸ s.advance.skipOnKey_setV r b _ _) (hkept rfl)
  | ldBVx x =>
    have hx := hread x (by simp [regReads])
    exact .of_commit h (exec_ldBVx _ x) (hx ▸ s.advance.writeBytes_setV r b _ _) (hkept rfl)
  | ldMemIVx x =>
    have hx : (s.setV r b).regsUpTo x = s.regsUpTo x :=
      State.regsUpTo_congr fun k hk => hread k (by simpa [regReads] using hk)
    exact .of_commit h (exec_ldMemIVx _ x) (hx ▸ s.advance.writeBytes_setV r b _ _) (hkept rfl)
  | seVxNn x | sneVxNn x =>
    have hx := hread x (by simp [regReads])
    cases h
    exact .of_kept (by simp only [exec_seVxNn, exec_sneVxNn, hx, ← State.skipIf_setV]; rfl) (hkept rfl)
  | seVxVy x y | sneVxVy x y =>
    have hx := hread x (by simp [regReads])
    have hy := hread y (by simp [regReads])
    cases h
    exact .of_kept (by simp only [exec_seVxVy, exec_sneVxVy, hx, hy, ← State.skipIf_setV]; rfl) (hkept rfl)
  | jpV0 nnn =>
    have hx := hread 0x0 rfl
    cases h
    exact .of_kept (by rw [exec_jpV0, hx]; rfl) rfl
  | ldDtVx x | ldStVx x | addIVx x | ldFVx x =>
    have hx := hread x (by simp [regReads])
    cases h
    exact .of_kept (by simp only [exec_ldDtVx, exec_ldStVx, exec_addIVx, exec_ldFVx, hx]; rfl) rfl
  | ldVxNn x nn =>
    cases h
    exact .intro rfl ((carries_advance r b s).setV x nn) (by simp [regWrites])
  | ldVxDt x =>
    cases h
    exact .intro rfl ((carries_advance r b s).setV x s.dt) (by simp [regWrites])
  | rnd x nn =>
    cases h
    exact .intro rfl ((carries_advance r b s).setV x _).bumpDraws (by simp [regWrites])
  | addVxNn x nn =>
    have hx := hread x (by simp [regReads])
    cases h
    exact .intro (by rw [exec_addVxNn, hx]) ((carries_advance r b s).setV x _) (by simp [regWrites])
  | ldVxVy x y =>
    have hy := hread y (by simp [regReads])
    cases h
    exact .intro (by rw [exec_ldVxVy, hy]) ((carries_advance r b s).setV x _) (by simp [regWrites])
  | or x y | and x y | xor x y =>
    have hx := hread x (by simp [regReads])
    have hy := hread y (by simp [regReads])
    cases h
    exact .intro (by simp only [exec_or, exec_and, exec_xor, hx, hy]) ((carries_advance r b s).setV x _) (by simp [regWrites])
  | addVxVy x y | sub x y | subn x y =>
    have hx := hread x (by simp [regReads])
    have hy := hread y (by simp [regReads])
    cases h
    exact .intro (by simp only [exec_addVxVy, exec_sub, exec_subn, hx, hy]) ((carries_advance r b s).setResultAndFlag x _)
      (by simp [regWrites])
  | shr x y | shl x y =>
    have hx := hread x (by simp [regReads])
    cases h
    exact .intro (by simp only [exec_shr, exec_shl, hx]) ((carries_advance r b s).setResultAndFlag x _) (by simp [regWrites])
  | _ =>
    cases h
    exact .of_kept rfl rfl

end Sys2Proof.Machine

open Sys2Proof.Machine

/-- Settles O17: the writes as a frame, the reads by the two runs. -/
theorem registerReadsAndWrites : Obligations.RegisterReadsAndWrites := by
  refine ⟨fun _ _ _ _ => exec_V_of_unwritten, fun i s t r b h hr => ?_⟩
  obtain ⟨t', he, v, rfl, hv, hw⟩ := exec_carries (b := b) h hr
  exact ⟨v, he, hv, fun hwr => hw (by simp [hwr])⟩
end

section
/-! PROOFS. O21, O22, O23, O24, O25, O26 (R160, R161, R163, R164, R69 to R71, R213). A push writes two bytes and SP (`State.pushed`);
a pop that finds the two bytes of a word answers that word. CALL and RET are these two with a write to PC, and they and LIFO follow
from where the two bytes stand. -/

namespace Sys2Proof.Machine

/-! ### The push -/

/-- The state after a push: high byte at SP - 1, low byte at SP, and SP down by 2 (R70, D9). -/
def State.pushed (s : State) (w : Word) : State :=
  (s.setMem ((s.mem.put (s.sp.toNat - 1) (highByte w)).put s.sp.toNat (lowByte w))).setSp (s.sp - 2)

theorem stackUsed_lt_iff {s : State} {depth : Nat} (hsp : s.sp.toNat ≤ 0x0EFF) :
    s.stackUsed < depth ↔ 0x0EFF < s.sp.toNat + 2 * depth := by
  show (0x0EFF - s.sp.toNat) / 2 < depth ↔ 0x0EFF < s.sp.toNat + 2 * depth
  omega

theorem push_of_room {s : State} {depth : Nat} (w : Word) (hsp : s.sp.toNat ≤ 0x0EFF) (hroom : 0x0EFF < s.sp.toNat + 2 * depth) :
    s.push depth w = .ok (s.pushed w) :=
  State.push_ok s depth w ((stackUsed_lt_iff hsp).2 hroom) (by omega)

theorem push_of_full {s : State} {depth : Nat} (w : Word) (hfull : s.sp.toNat + 2 * depth ≤ 0x0EFF) :
    s.push depth w = .error .stackOverflow := by
  have hused := stackUsed_lt_iff (s := s) (depth := depth) (by omega)
  exact State.push_full s depth w (by omega)

variable {s : State} {w : Word}

theorem pushed_sp (h : 2 ≤ s.sp.toNat) : (s.pushed w).sp.toNat + 2 = s.sp.toNat := by
  show (s.sp - 2).toNat + 2 = s.sp.toNat
  bv_omega

theorem pushed_byte (a : Nat) : (s.pushed w).mem.byte a =
    if a = s.sp.toNat then lowByte w else if a = s.sp.toNat - 1 then highByte w else s.mem.byte a := by
  show ((s.mem.put (s.sp.toNat - 1) (highByte w)).put s.sp.toNat (lowByte w)).byte a = _
  rw [Memory.byte_put, Memory.byte_put]

theorem pushed_byte_low : (s.pushed w).mem.byte s.sp.toNat = lowByte w := by
  rw [pushed_byte, if_pos rfl]

theorem pushed_byte_high (h : 1 ≤ s.sp.toNat) : (s.pushed w).mem.byte (s.sp.toNat - 1) = highByte w := by
  rw [pushed_byte, if_neg (by omega), if_pos rfl]

theorem pushed_byte_other {a : Nat} (ha : a < s.sp.toNat - 1 ∨ s.sp.toNat < a) : (s.pushed w).mem.byte a = s.mem.byte a := by
  rw [pushed_byte, if_neg (by omega), if_neg (by omega)]

theorem highByte_lowByte_toNat (w : Word) : (highByte w).toNat * 256 + (lowByte w).toNat = w.toNat := by
  rw [← wordOfBytes_toNat, wordOfBytes_high_low]

/-- The two bytes of a push, high byte first, are the pushed word. -/
theorem pushed_word_toNat (h : 1 ≤ s.sp.toNat) :
    ((s.pushed w).mem.byte (s.sp.toNat - 1)).toNat * 256 + ((s.pushed w).mem.byte s.sp.toNat).toNat = w.toNat := by
  rw [pushed_byte_high h, pushed_byte_low, highByte_lowByte_toNat]

/-! ### The pop -/

/-- A pop that finds the two bytes of w above SP answers w. -/
theorem pop_of_word (hne : s.sp.toNat ≠ 0x0EFF) (hlt : s.sp.toNat + 2 < 4096)
    (hhi : s.mem.byte (s.sp.toNat + 1) = highByte w) (hlo : s.mem.byte (s.sp.toNat + 2) = lowByte w) :
    s.pop = .ok (w, s.setSp (s.sp + 2)) := by
  rw [State.pop_ok s hne hlt, hhi, hlo, wordOfBytes_high_low]

/-- A pop that finds SP and the two bytes as a push from s left them answers the pushed word, with SP back. -/
theorem pop_after_push {u : State} (hsp : u.sp = (s.pushed w).sp) (hlo : 2 ≤ s.sp.toNat) (hhi : s.sp.toNat ≤ 0x0EFF)
    (hbyteHi : u.mem.byte (s.sp.toNat - 1) = highByte w) (hbyteLo : u.mem.byte s.sp.toNat = lowByte w) :
    u.pop = .ok (w, u.setSp s.sp) := by
  have hdown : u.sp.toNat + 2 = s.sp.toNat := hsp ▸ pushed_sp hlo
  have hback : u.sp + 2 = s.sp := by bv_omega
  rw [← hback]
  refine pop_of_word (by omega) (by omega) ?_ (hdown ▸ hbyteLo)
  rw [show u.sp.toNat + 1 = s.sp.toNat - 1 by omega, hbyteHi]

/-! ### CALL and RET -/

theorem exec_call_of_room (nnn : Addr12) (hsp : s.sp.toNat ≤ 0x0EFF) (hroom : 0x0EFF < s.sp.toNat + 2 * Params.stackDepth) :
    exec (.call nnn) s = .next ((s.advance.pushed (s.pc + 2)).setPc (zextAddr nnn)) := by
  have hpush := push_of_room (s := s.advance) (s.pc + 2) hsp hroom
  rw [exec_call, State.callTo, State.advance_pc, hpush]
  rfl

theorem takesFault_call_of_full (nnn : Addr12) (hfull : s.sp.toNat + 2 * Params.stackDepth ≤ 0x0EFF) :
    TakesFault (.call nnn) s .stackOverflow none none := by
  have hpush := push_of_full (s := s.advance) (s.pc + 2) hfull
  rw [TakesFault, exec_call, State.callTo, State.advance_pc, hpush]
  rfl

theorem changesOnly_call (s : State) (v p : Word) : ChangesOnly [.pc, .sp, .mem] s ((s.advance.pushed v).setPc p) := by
  intro part hpart
  cases part with
  | pc | sp | mem => simp at hpart
  | _ => simp [Part.same, State.pushed]

theorem exec_ret_of_pop {a : Word} {u : State} (h : s.advance.pop = .ok (a, u)) : exec .ret s = .next (u.setPc a) := by
  rw [exec_ret, State.returnToCaller, h]
  rfl

theorem changesOnly_ret (s : State) (v p : Word) : ChangesOnly [.pc, .sp] s ((s.advance.setSp v).setPc p) := by
  intro part hpart
  cases part with
  | pc | sp => simp at hpart
  | _ => simp [Part.same]

theorem takesFault_ret_of_empty (h : s.sp.toNat = 0x0EFF) : TakesFault .ret s .stackUnderflow none none := by
  rw [TakesFault, exec_ret, State.returnToCaller, State.pop_empty s.advance h]
  rfl

/-! ### BNNN -/

theorem zextByte_toNat (b : Byte) : (zextByte b).toNat = b.toNat :=
  BitVec.toNat_setWidth_of_le (by decide)

/-- A byte and 12 bits make at most 0x10FE: the sum does not wrap. -/
theorem zextByte_add_zextAddr_toNat (b : Byte) (nnn : Addr12) : (zextByte b + zextAddr nnn).toNat = b.toNat + nnn.toNat := by
  have hb := b.isLt
  have hn := nnn.isLt
  rw [BitVec.toNat_add, zextByte_toNat, zextAddr_toNat]
  omega

end Sys2Proof.Machine

open Sys2Proof Sys2Proof.Machine

/-- Settles O21: one write to PC, of a sum that does not wrap. -/
theorem jumpV0SetsPc : Obligations.JumpV0SetsPc := fun s nnn =>
  ⟨_, exec_jpV0 s nnn, zextByte_add_zextAddr_toNat (s.V 0x0) nnn, changesOnly_setPc s _⟩

/-- Settles O22: the push of the advanced PC and the jump, or the fault of the push. -/
theorem callPushesAndJumps : Obligations.CallPushesAndJumps := by
  intro s nnn hsp
  refine ⟨fun hroom => ?_, takesFault_call_of_full nnn⟩
  have hdepth : Params.stackDepth = 16 := rfl
  have hpos : 2 ≤ s.sp.toNat := by omega
  have hword := (pushed_word_toNat (s := s.advance) (w := s.pc + 2) (Nat.le_of_succ_le hpos)).trans (BitVec.toNat_add _ _)
  refine ⟨_, exec_call_of_room nnn hsp hroom, zextAddr_toNat nnn, pushed_sp (s := s.advance) (w := s.pc + 2) hpos, hword,
    fun a ha => ?_, changesOnly_call s _ _⟩
  exact pushed_byte_other (s := s.advance) (show a < s.sp.toNat - 1 ∨ s.sp.toNat < a by omega)

/-- Settles O23: the pop and a write to PC, or the fault of the pop. -/
theorem returnPopsPc : Obligations.ReturnPopsPc := by
  intro s
  refine ⟨fun hne hlt => ?_, takesFault_ret_of_empty⟩
  refine ⟨_, exec_ret_of_pop (State.pop_ok s.advance hne hlt), wordOfBytes_toNat _ _, ?_, changesOnly_ret s _ _⟩
  show (s.sp + 2).toNat = s.sp.toNat + 2
  bv_omega

/-- Settles O24: RET finds SP and the two bytes as CALL left them. -/
theorem callThenReturn : Obligations.CallThenReturn := by
  intro s t u nnn hsp hroom h husp hbytes
  cases (exec_call_of_room nnn hsp hroom).symm.trans h
  have hdepth : Params.stackDepth = 16 := rfl
  have hpos : 2 ≤ s.sp.toNat := by omega
  have hhi : u.mem.byte (s.sp.toNat - 1) = highByte (s.pc + 2) :=
    (hbytes _ le_rfl (Nat.sub_le _ _)).trans (pushed_byte_high (s := s.advance) (Nat.le_of_succ_le hpos))
  have hlo : u.mem.byte s.sp.toNat = lowByte (s.pc + 2) :=
    (hbytes _ (Nat.sub_le _ _) le_rfl).trans (pushed_byte_low (s := s.advance))
  have hpop := pop_after_push (s := s.advance) (u := u.advance) husp hpos hsp hhi hlo
  exact ⟨_, exec_ret_of_pop hpop, rfl, rfl⟩

/-- Settles O25: the second push stands below the first, so the first pop finds its bytes, and the second those of the first push. -/
theorem pushPopLifo : Obligations.PushPopLifo := by
  intro depth a b s hdepth hsp hroom
  have hdown : (s.pushed a).sp.toNat + 2 = s.sp.toNat := pushed_sp (by omega)
  have hhi : ((s.pushed a).pushed b).mem.byte (s.sp.toNat - 1) = highByte a := by
    rw [pushed_byte_other (.inr (by omega)), pushed_byte_high (by omega)]
  have hlo : ((s.pushed a).pushed b).mem.byte s.sp.toNat = lowByte a := by
    rw [pushed_byte_other (.inr (by omega)), pushed_byte_low]
  have hpop1 := pop_after_push (s := s.pushed a) (w := b) rfl (by omega) (by omega) (pushed_byte_high (by omega)) pushed_byte_low
  have hpop2 := pop_after_push (s := s) (u := ((s.pushed a).pushed b).setSp (s.pushed a).sp) (State.setSp_sp _ _) (by omega) hsp hhi hlo
  exact ⟨_, _, _, _, push_of_room a hsp (by omega), push_of_room b (by omega) (by omega), hpop1, hpop2, State.setSp_sp _ _⟩

/-- Settles O26: each body is the raised fault, and taking it is the definition of the step's end. -/
theorem unsupportedFormsFault : Obligations.UnsupportedFormsFault := fun s _ _ _ =>
  ⟨State.commit_error s _ .unsupportedFeature, State.commit_error s _ .unknownAluSubOpcode,
    State.commit_error s _ .unknownAluSubOpcode, State.commit_error s _ .unknownAluSubOpcode,
    State.commit_error s _ .unknownAluSubOpcode, State.commit_error s _ .unknownAluSubOpcode,
    State.commit_error s _ .unknownAluSubOpcode, State.commit_error s _ .unknownAluSubOpcode⟩
end

section
/-! PROOFS. O28, O29 (R183 to R186, R300). Each is the skip of R180 with its own test; a key value past the last key is refused by
the test itself. -/

namespace Sys2Proof.Machine

theorem exec_skp_of_key {s : State} {x : RegIdx} (h : (s.V x).toNat < 16) :
    exec (.skp x) s = .next (s.advance.skipIf (s.keyFlag (s.V x).toNat == true)) := by
  rw [exec_skp, State.skipOnKey_eq, if_pos h]
  rfl

theorem exec_sknp_of_key {s : State} {x : RegIdx} (h : (s.V x).toNat < 16) :
    exec (.sknp x) s = .next (s.advance.skipIf (s.keyFlag (s.V x).toNat == false)) := by
  rw [exec_sknp, State.skipOnKey_eq, if_pos h]
  rfl

theorem takesFault_skp {s : State} {x : RegIdx} (h : 16 ≤ (s.V x).toNat) : TakesFault (.skp x) s .keyIndex none (some (s.V x)) := by
  rw [TakesFault, exec_skp, State.skipOnKey_eq, if_neg (Nat.not_lt_of_le h)]
  rfl

theorem takesFault_sknp {s : State} {x : RegIdx} (h : 16 ≤ (s.V x).toNat) :
    TakesFault (.sknp x) s .keyIndex none (some (s.V x)) := by
  rw [TakesFault, exec_sknp, State.skipOnKey_eq, if_neg (Nat.not_lt_of_le h)]
  rfl

end Sys2Proof.Machine

open Sys2Proof.Machine

/-- Settles O28: the skip of R180 with the two tests. -/
theorem skipsOnRegister : Obligations.SkipsOnRegister := by
  intro s x y
  obtain ⟨hseTaken, hseNot⟩ := pcForward_advance_skipIf s (beq_iff_eq (a := s.V x) (b := s.V y))
  obtain ⟨hsneTaken, hsneNot⟩ := pcForward_advance_skipIf s (bne_iff_ne (a := s.V x) (b := s.V y))
  exact ⟨⟨_, exec_seVxVy s x y, changesOnly_advance_skipIf s _, hseTaken, hseNot⟩,
    ⟨_, exec_sneVxVy s x y, changesOnly_advance_skipIf s _, hsneTaken, fun h => hsneNot (not_not_intro h)⟩⟩

/-- Settles O29: the skip of R180 with the key flag as its test, or the fault of R300. -/
theorem skipsOnKey : Obligations.SkipsOnKey := by
  intro s x
  refine ⟨fun hkey => ?_, fun hkey => ⟨takesFault_skp hkey, takesFault_sknp hkey⟩⟩
  obtain ⟨hskpTaken, hskpNot⟩ := pcForward_advance_skipIf s (beq_iff_eq (a := s.keyFlag (s.V x).toNat) (b := true))
  obtain ⟨hsknpTaken, hsknpNot⟩ := pcForward_advance_skipIf s (beq_iff_eq (a := s.keyFlag (s.V x).toNat) (b := false))
  exact ⟨⟨_, exec_skp_of_key hkey, changesOnly_advance_skipIf s _, hskpTaken, fun h => hskpNot (by simp [h])⟩,
    ⟨_, exec_sknp_of_key hkey, changesOnly_advance_skipIf s _, hsknpTaken, fun h => hsknpNot (by simp [h])⟩⟩
end

section
/-! PROOFS. O32, O33, O34, O35, O37 (R200, R201, R208 to R212, R214, R241). The flagged instructions are the advance with one
result and one flag; what such a pair does to the registers and leaves unchanged is said once, and each operation is then two facts
about numbers. -/

namespace Sys2Proof.Machine

/-! ### Two changes after each other -/

theorem Part.same_trans {s t u : State} {p : Part} (h1 : p.same s t) (h2 : p.same t u) : p.same s u := by
  cases p with
  | v | key | mem => exact fun a => (h2 a).trans (h1 a)
  | disp => exact fun x y => (h2 x y).trans (h1 x y)
  | _ => exact Eq.trans h2 h1

theorem ChangesOnly.comp {ps qs rs : List Part} {s t u : State} (h1 : ChangesOnly ps s t) (h2 : ChangesOnly qs t u)
    (hps : ps ⊆ rs) (hqs : qs ⊆ rs) : ChangesOnly rs s u := fun p hp =>
  Part.same_trans (h1 p fun h => hp (hps h)) (h2 p fun h => hp (hqs h))

theorem changesOnly_setV (s : State) (x : RegIdx) (b : Byte) : ChangesOnly [.v] s (s.setV x b) := by
  intro p hp
  cases p with
  | v => simp at hp
  | _ => simp [Part.same]

theorem changesOnly_bumpDraws (s : State) : ChangesOnly [.draws] s s.bumpDraws := by
  intro p hp
  cases p with
  | draws => simp at hp
  | _ => simp [Part.same]

/-! ### Result and flag after the advance -/

theorem advance_setResultAndFlag_result {s : State} {x : RegIdx} (out : Byte × Bool) (hx : x ≠ 0xF) :
    (s.advance.setResultAndFlag x out).V x = out.1 := by
  rw [State.V_setResultAndFlag, if_neg hx, if_pos rfl]

theorem advance_setResultAndFlag_flag (s : State) (x : RegIdx) (out : Byte × Bool) :
    (s.advance.setResultAndFlag x out).V 0xF = flagByte out.2 := by
  rw [State.V_setResultAndFlag, if_pos rfl]

/-- The frame of a flagged instruction: no register but Vx and VF, PC forward by 2, no other part of the state. -/
theorem advance_setResultAndFlag_frame (s : State) (x : RegIdx) (out : Byte × Bool) :
    OtherRegsSameButF x s (s.advance.setResultAndFlag x out) ∧ PcForward 2 s (s.advance.setResultAndFlag x out) ∧
      ChangesOnly [.v, .pc] s (s.advance.setResultAndFlag x out) := by
  refine ⟨fun r hx hF => ?_, pcForward_advance_setV s x out.1, ?_⟩
  · rw [State.V_setResultAndFlag, if_neg hF, if_neg hx, State.V_advance]
  · exact (changesOnly_advance_setV s x out.1).comp (changesOnly_setV _ 0xF _) (by simp) (by simp)

theorem flagByte_decide_toNat (p : Prop) [Decidable p] : (flagByte (decide p)).toNat = if p then 1 else 0 := by
  by_cases h : p <;> simp [flagByte, h]

/-- A flag that is one bit of a number is that bit. -/
theorem flagByte_getLsbD_toNat (a : Byte) (k : Nat) : (flagByte (a.getLsbD k)).toNat = a.toNat / 2 ^ k % 2 := by
  rw [BitVec.getLsbD, Nat.testBit_eq_decide_div_mod_eq, flagByte_decide_toNat]
  split <;> omega

/-! ### The operations as numbers -/

theorem aluAdd_result_toNat (a b : Byte) : (aluAdd a b).1.toNat = (a.toNat + b.toNat) % 256 := by
  rw [aluAdd, ← Nat.cast_add, wrap8_natCast_toNat]

theorem aluAdd_flag_toNat (a b : Byte) : (flagByte (aluAdd a b).2).toNat = if a.toNat + b.toNat > 255 then 1 else 0 :=
  flagByte_decide_toNat _

/-- The difference wraps to the one that 256 makes non-negative. -/
theorem aluSub_result_toNat (a b : Byte) : (aluSub a b).1.toNat = (a.toNat + 256 - b.toNat) % 256 := by
  have ha := a.isLt
  have hb := b.isLt
  rw [aluSub, wrap8, BitVec.toNat_ofInt]
  omega

theorem aluSub_flag_toNat (a b : Byte) : (flagByte (aluSub a b).2).toNat = if a.toNat ≥ b.toNat then 1 else 0 :=
  flagByte_decide_toNat _

theorem aluShr_result_toNat (a : Byte) : (aluShr a).1.toNat = a.toNat / 2 := by
  rw [aluShr, BitVec.toNat_ushiftRight, Nat.shiftRight_eq_div_pow, pow_one]

theorem aluShr_flag_toNat (a : Byte) : (flagByte (aluShr a).2).toNat = a.toNat % 2 := by
  rw [aluShr, flagByte_getLsbD_toNat, pow_zero, Nat.div_one]

theorem aluShl_result_toNat (a : Byte) : (aluShl a).1.toNat = a.toNat * 2 % 256 := by
  rw [aluShl, wrap8_natCast_toNat, Nat.shiftLeft_eq, pow_one]

theorem aluShl_flag_toNat (a : Byte) : (flagByte (aluShl a).2).toNat = a.toNat / 128 := by
  have ha := a.isLt
  rw [aluShl, flagByte_getLsbD_toNat]
  omega

/-! ### The draw -/

theorem rnd_frame (s : State) (x : RegIdx) (b : Byte) :
    OtherRegsSame x s (s.advance.setV x b).bumpDraws ∧ PcForward 2 s (s.advance.setV x b).bumpDraws ∧
      ChangesOnly [.v, .pc, .draws] s (s.advance.setV x b).bumpDraws := by
  obtain ⟨hregs, hpc, hrest⟩ := advance_setV_frame s x b
  exact ⟨hregs, hpc, hrest.comp (changesOnly_bumpDraws _) (by simp) (by simp)⟩

end Sys2Proof.Machine

open Sys2Proof.Machine

/-- Settles O32: result and flag after the advance, with the sum as a number. -/
theorem addWithCarry : Obligations.AddWithCarry := fun s x y =>
  ⟨_, exec_addVxVy s x y,
    fun hx => (congrArg BitVec.toNat (advance_setResultAndFlag_result _ hx)).trans (aluAdd_result_toNat _ _),
    (congrArg BitVec.toNat (advance_setResultAndFlag_flag s x _)).trans (aluAdd_flag_toNat _ _),
    advance_setResultAndFlag_frame s x _⟩

/-- Settles O33: result and flag after the advance, with the difference as a number. -/
theorem subtractWithoutBorrow : Obligations.SubtractWithoutBorrow := fun s x y =>
  ⟨⟨_, exec_sub s x y,
      fun hx => (congrArg BitVec.toNat (advance_setResultAndFlag_result _ hx)).trans (aluSub_result_toNat _ _),
      (congrArg BitVec.toNat (advance_setResultAndFlag_flag s x _)).trans (aluSub_flag_toNat _ _),
      advance_setResultAndFlag_frame s x _⟩,
    ⟨_, exec_subn s x y,
      fun hx => (congrArg BitVec.toNat (advance_setResultAndFlag_result _ hx)).trans (aluSub_result_toNat _ _),
      (congrArg BitVec.toNat (advance_setResultAndFlag_flag s x _)).trans (aluSub_flag_toNat _ _),
      advance_setResultAndFlag_frame s x _⟩⟩

/-- Settles O34: result and flag after the advance, with the shifts as a quotient and a product. -/
theorem shiftsOfVx : Obligations.ShiftsOfVx := fun s x y =>
  ⟨⟨_, exec_shr s x y,
      fun hx => (congrArg BitVec.toNat (advance_setResultAndFlag_result _ hx)).trans (aluShr_result_toNat _),
      (congrArg BitVec.toNat (advance_setResultAndFlag_flag s x _)).trans (aluShr_flag_toNat _),
      advance_setResultAndFlag_frame s x _⟩,
    ⟨_, exec_shl s x y,
      fun hx => (congrArg BitVec.toNat (advance_setResultAndFlag_result _ hx)).trans (aluShl_result_toNat _),
      (congrArg BitVec.toNat (advance_setResultAndFlag_flag s x _)).trans (aluShl_flag_toNat _),
      advance_setResultAndFlag_frame s x _⟩⟩

/-- Settles O35: one register write of the masked draw after the advance, and the counter. -/
theorem randomMasksTheDraw : Obligations.RandomMasksTheDraw := fun s x nn =>
  ⟨_, exec_rnd s x nn, fun k => by rw [State.V_bumpDraws, State.V_setV_self, BitVec.getLsbD_and], rfl, rnd_frame s x _⟩

/-- Settles O37: one write to I after the advance, of the sum modulo 2^16. -/
theorem indexAdd : Obligations.IndexAdd := fun s x =>
  ⟨_, exec_addIVx s x, by rw [State.setI_iReg, BitVec.toNat_add, zextByte_toNat], advance_setI_frame s _⟩
end

section
/-! PROOFS. O38, O39, O40, O41, O42 (R243 to R245, R64, R68). A store is the advance and one list of bytes written from I, a load the
advance and one list of bytes read from I; where byte k stands and what else stays is said once for each. Dump and load, and dump
and fetch, meet in these two. -/

namespace Sys2Proof.Machine

/-! ### The store -/

/-- The state after a store of bytes from I. -/
def State.stored (s : State) (bs : List Byte) : State := s.advance.setMem (s.mem.putBytes s.iReg.toNat bs)

variable {s : State} {bs : List Byte}

theorem stored_byte {k : Nat} (hk : k < bs.length) : (s.stored bs).mem.byte (s.iReg.toNat + k) = bs.getD k 0 := by
  rw [State.stored, State.setMem_mem, Memory.byte_putBytes, if_pos ⟨Nat.le_add_right _ _, Nat.add_lt_add_left hk _⟩,
    Nat.add_sub_cancel_left]

theorem changesOnly_stored (s : State) (bs : List Byte) : ChangesOnly [.mem, .pc] s (s.stored bs) := by
  intro p hp
  cases p with
  | mem | pc => simp at hp
  | _ => simp [Part.same, State.stored]

/-- The frame of a store: no byte outside its list, PC forward by 2, no other part of the state. -/
theorem stored_frame (s : State) {bs : List Byte} {n : Nat} (hn : bs.length = n) :
    OtherBytesSame s.iReg.toNat n s (s.stored bs) ∧ PcForward 2 s (s.stored bs) ∧ ChangesOnly [.mem, .pc] s (s.stored bs) := by
  refine ⟨fun a ha => ?_, pcForward_advance_skipIf_false s, changesOnly_stored s bs⟩
  rw [State.stored, State.setMem_mem, Memory.byte_putBytes]
  exact if_neg (by omega)

/-! ### FX33 -/

/-- Each digit of a byte is below 10, so it is a byte as it stands. -/
theorem bcdDigits_toNat (b : Byte) : ((bcdDigits b).getD 0 0).toNat = b.toNat / 100 ∧
    ((bcdDigits b).getD 1 0).toNat = b.toNat / 10 % 10 ∧ ((bcdDigits b).getD 2 0).toNat = b.toNat % 10 := by
  have hb := b.isLt
  refine ⟨?_, ?_, ?_⟩ <;>
    simp only [bcdDigits, List.getD_cons_zero, List.getD_cons_succ, BitVec.toNat_ofNat] <;> omega

theorem takesFault_ldBVx {x : RegIdx} (h : 4096 ≤ s.iReg.toNat + 2) :
    TakesFault (.ldBVx x) s .memoryAddress (some (max s.iReg.toNat 4096)) none :=
  exec_ldBVx_out_of_range x (Nat.not_lt_of_le h)

/-! ### FX55 -/

theorem regOf_toNat (r : RegIdx) : regOf r.toNat = r := by
  simp [regOf]

theorem regsUpTo_getD {x r : RegIdx} (h : r.toNat ≤ x.toNat) : (s.regsUpTo x).getD r.toNat 0 = s.V r := by
  simp [State.regsUpTo, Nat.lt_succ_of_le h, regOf_toNat]

theorem stored_regsUpTo_byte {x r : RegIdx} (h : r.toNat ≤ x.toNat) :
    (s.stored (s.regsUpTo x)).mem.byte (s.iReg.toNat + r.toNat) = s.V r := by
  rw [stored_byte (by rw [State.regsUpTo_length]; omega), regsUpTo_getD h]

theorem takesFault_ldMemIVx {x : RegIdx} (h : 4096 ≤ s.iReg.toNat + x.toNat) :
    TakesFault (.ldMemIVx x) s .memoryAddress (some (max s.iReg.toNat 4096)) none :=
  exec_ldMemIVx_out_of_range (Nat.not_lt_of_le h)

/-! ### FX65 -/

/-- What each register holds after a load of V0 to Vx. -/
theorem loaded_V (s : State) (x r : RegIdx) : (s.advance.setVs 0 (s.bytesAtI (x.toNat + 1))).V r =
    if r.toNat ≤ x.toNat then s.mem.byte (s.iReg.toNat + r.toNat) else s.V r := by
  have hx := x.isLt
  rw [State.V_setVs _ _ _ _ (by rw [State.bytesAtI_length]; omega), State.bytesAtI_length]
  by_cases h : r.toNat ≤ x.toNat
  · rw [if_pos (by omega), if_pos h, Nat.sub_zero, State.bytesAtI_getD s (Nat.lt_succ_of_le h)]
  · rw [if_neg (by omega), if_neg h, State.V_advance]

/-- The frame of a load: PC forward by 2, no other part of the state but V. -/
theorem loaded_frame (s : State) (bs : List Byte) :
    PcForward 2 s (s.advance.setVs 0 bs) ∧ ChangesOnly [.v, .pc] s (s.advance.setVs 0 bs) := by
  obtain ⟨v, hv⟩ := State.setVs_frame bs s.advance 0
  rw [hv]
  refine ⟨pcForward_advance_skipIf_false s, fun p hp => ?_⟩
  cases p with
  | v | pc => simp at hp
  | key => exact fun _ => rfl
  | _ => simp [Part.same]

theorem takesFault_ldVxMemI {x : RegIdx} (h : 4096 ≤ s.iReg.toNat + x.toNat) :
    TakesFault (.ldVxMemI x) s .memoryAddress (some (max s.iReg.toNat 4096)) none :=
  exec_ldVxMemI_out_of_range (Nat.not_lt_of_le h)

end Sys2Proof.Machine

open Sys2Proof Sys2Proof.Machine

/-- Settles O38: the store of the three digits, or the fault of the first byte out of range. -/
theorem bcdStoresDigits : Obligations.BcdStoresDigits := by
  intro s x
  refine ⟨fun hin => ?_, takesFault_ldBVx⟩
  obtain ⟨h0, h1, h2⟩ := bcdDigits_toNat (s.V x)
  refine ⟨_, exec_ldBVx_in_range x hin, ?_, ?_, ?_, stored_frame s (bs := bcdDigits (s.V x)) rfl⟩
  · exact (congrArg BitVec.toNat (stored_byte (k := 0) (by simp [bcdDigits]))).trans h0
  · exact (congrArg BitVec.toNat (stored_byte (k := 1) (by simp [bcdDigits]))).trans h1
  · exact (congrArg BitVec.toNat (stored_byte (k := 2) (by simp [bcdDigits]))).trans h2

/-- Settles O39: the store of V0 to Vx, or the fault of the first byte out of range. -/
theorem dumpStoresRegisters : Obligations.DumpStoresRegisters := fun s x =>
  ⟨fun hin => ⟨_, exec_ldMemIVx_in_range hin, fun _ hr => stored_regsUpTo_byte hr, stored_frame s (s.regsUpTo_length x)⟩,
    takesFault_ldMemIVx⟩

/-- Settles O40: the load of V0 to Vx, or the fault of the first byte out of range. -/
theorem loadReadsRegisters : Obligations.LoadReadsRegisters := fun s x =>
  ⟨fun hin => ⟨_, exec_ldVxMemI_in_range hin, fun r hr => (loaded_V s x r).trans (if_pos hr),
      fun r hr => (loaded_V s x r).trans (if_neg (Nat.not_le_of_lt hr)), loaded_frame s _⟩,
    takesFault_ldVxMemI⟩

/-- Settles O41: the load reads the bytes that the store wrote. -/
theorem dumpThenLoadRestores : Obligations.DumpThenLoadRestores := by
  intro s t u x hin h hi hbytes
  cases (exec_ldMemIVx_in_range hin).symm.trans h
  have hiu : u.iReg = s.iReg := hi
  refine ⟨_, exec_ldVxMemI_in_range (by rw [hiu]; exact hin), fun r hr => ?_⟩
  rw [loaded_V, if_pos hr, hbytes, hiu]
  exact stored_regsUpTo_byte hr

/-- Settles O42: the fetch reads the first two bytes that the store wrote. -/
theorem storeIsFetched : Obligations.StoreIsFetched := by
  intro s t x hx hin h
  cases (exec_ldMemIVx_in_range hin).symm.trans h
  have h0 := stored_regsUpTo_byte (s := s) (x := x) (r := 0x0) (Nat.zero_le _)
  have h1 := stored_regsUpTo_byte (s := s) (x := x) (r := 0x1) hx
  have hpc : s.iReg.toNat + 1 < 4096 := by omega
  refine ⟨_, (State.fetchOpcode_eq _).trans (if_pos hpc), ?_⟩
  rw [wordOfBytes_toNat, ← h0, ← h1]
  rfl
end

section
/-! PROOFS. O44, O45 (R271 to R275). The compositing law `Display.drawSprite_spec` says it all: the covered pixels change over, and
the flag is 1 exactly when one of them was On. A second draw covers the same pixels, so they change back. -/

namespace Sys2Proof.Machine

/-! ### One draw -/

/-- A set bit of the n bytes at I, placed from the coordinates V[x] and V[y], lands on the pixel. -/
def State.DrawCovers (s : State) (x y : RegIdx) (n : Nibble) (px py : Nat) : Prop :=
  SpriteCovers (s.V x).toNat (s.V y).toNat (s.bytesAtI n.toNat) px py

/-- The state after a draw whose bytes all exist. -/
def State.drawn (s : State) (x y : RegIdx) (n : Nibble) : State :=
  (s.advance.setDisp (s.disp.drawSprite (s.V x).toNat (s.V y).toNat (s.bytesAtI n.toNat)).1).setV 0xF
    (flagByte (s.disp.drawSprite (s.V x).toNat (s.V y).toNat (s.bytesAtI n.toNat)).2)

variable {s : State} {x y : RegIdx} {n : Nibble}

theorem drawCovers_iff {px py : Nat} : s.DrawCovers x y n px py ↔
    ∃ r c, r < n.toNat ∧ c < 8 ∧ (s.mem.byte (s.iReg.toNat + r)).getLsbD (7 - c) = true ∧
      px % 64 = ((s.V x).toNat + c) % 64 ∧ py % 32 = ((s.V y).toNat + r) % 32 := by
  unfold State.DrawCovers SpriteCovers
  rw [State.bytesAtI_length]
  constructor
  · rintro ⟨r, hr, c, hc, hbit, hpx, hpy⟩
    rw [State.bytesAtI_getD s hr] at hbit
    exact ⟨r, c, hr, hc, hbit, hpx, hpy⟩
  · rintro ⟨r, c, hr, hc, hbit, hpx, hpy⟩
    refine ⟨r, hr, c, hc, ?_, hpx, hpy⟩
    rw [State.bytesAtI_getD s hr]
    exact hbit

/-- A sprite of at most 15 rows meets no pixel twice. -/
theorem drawn_composited (s : State) (x y : RegIdx) (n : Nibble) : Composited (s.DrawCovers x y n) (s.disp, false)
    (s.disp.drawSprite (s.V x).toNat (s.V y).toNat (s.bytesAtI n.toNat)) := by
  have hn := n.isLt
  exact Display.drawSprite_spec s.disp _ _ _ (by rw [State.bytesAtI_length]; omega)

theorem drawn_pixel (px py : Nat) : (s.drawn x y n).disp.pixel px py = true ↔
    ¬ (s.disp.pixel px py = true ↔ s.DrawCovers x y n px py) :=
  (drawn_composited s x y n).pixel px py

theorem drawn_pixel_ne_iff (px py : Nat) : (s.drawn x y n).disp.pixel px py ≠ s.disp.pixel px py ↔ s.DrawCovers x y n px py := by
  have hpixel := drawn_pixel (s := s) (x := x) (y := y) (n := n) px py
  cases hs : s.disp.pixel px py <;> cases ht : (s.drawn x y n).disp.pixel px py <;> simp_all

theorem flagByte_eq_one (b : Bool) : flagByte b = 1 ↔ b = true := by
  cases b <;> decide

theorem drawn_VF (s : State) (x y : RegIdx) (n : Nibble) : (s.drawn x y n).V 0xF =
    flagByte (s.disp.drawSprite (s.V x).toNat (s.V y).toNat (s.bytesAtI n.toNat)).2 :=
  State.V_setV_self _ _ _

theorem drawn_VF_zero_or_one (s : State) (x y : RegIdx) (n : Nibble) :
    (s.drawn x y n).V 0xF = 0 ∨ (s.drawn x y n).V 0xF = 1 := by
  rw [drawn_VF]
  cases (s.disp.drawSprite (s.V x).toNat (s.V y).toNat (s.bytesAtI n.toNat)).2
  · exact .inl rfl
  · exact .inr rfl

/-- VF is 1 exactly when a covered pixel was On. -/
theorem drawn_VF_eq_one : (s.drawn x y n).V 0xF = 1 ↔ ∃ px py, s.DrawCovers x y n px py ∧ s.disp.pixel px py = true := by
  rw [drawn_VF, flagByte_eq_one, (drawn_composited s x y n).hit]
  simp

/-- A covered pixel that was On is one that has gone Off. -/
theorem drawn_turned_off_iff (px py : Nat) : s.DrawCovers x y n px py ∧ s.disp.pixel px py = true ↔
    s.disp.pixel px py = true ∧ (s.drawn x y n).disp.pixel px py = false := by
  rw [← drawn_pixel_ne_iff]
  cases s.disp.pixel px py <;> cases (s.drawn x y n).disp.pixel px py <;> decide

/-- The frame of a draw: no register but VF, PC forward by 2, no other part of the state but the display. -/
theorem drawn_frame (s : State) (x y : RegIdx) (n : Nibble) : OtherRegsSame 0xF s (s.drawn x y n) ∧
    PcForward 2 s (s.drawn x y n) ∧ ChangesOnly [.v, .disp, .pc] s (s.drawn x y n) :=
  ⟨State.V_setV_ne _ 0xF _, pcForward_advance_skipIf_false s,
    (changesOnly_advance_setDisp s _).comp (changesOnly_setV _ 0xF _) (by simp) (by simp)⟩

theorem takesFault_drw (hn : n.toNat ≠ 0) (h : 4096 < s.iReg.toNat + n.toNat) :
    TakesFault (.drw x y n) s .memoryAddress (some (max s.iReg.toNat 4096)) none :=
  exec_drw_out_of_range x y (not_or_intro hn (Nat.not_le_of_lt h))

/-! ### Two draws -/

/-- A second draw at the same coordinates covers the same pixels: the first has written neither I nor memory. -/
theorem drawCovers_drawn (hx : (s.drawn x y n).V x = s.V x) (hy : (s.drawn x y n).V y = s.V y) (px py : Nat) :
    (s.drawn x y n).DrawCovers x y n px py ↔ s.DrawCovers x y n px py := by
  have hbytes : (s.drawn x y n).bytesAtI n.toNat = s.bytesAtI n.toNat := rfl
  rw [State.DrawCovers, State.DrawCovers, hx, hy, hbytes]

theorem drawn_drawn_pixel (hx : (s.drawn x y n).V x = s.V x) (hy : (s.drawn x y n).V y = s.V y) (px py : Nat) :
    ((s.drawn x y n).drawn x y n).disp.pixel px py = s.disp.pixel px py := by
  have h1 := drawn_pixel (s := s) (x := x) (y := y) (n := n) px py
  have h2 := drawn_pixel (s := s.drawn x y n) (x := x) (y := y) (n := n) px py
  rw [drawCovers_drawn hx hy, h1] at h2
  rw [Bool.eq_iff_iff, h2]
  by_cases hcovers : s.DrawCovers x y n px py <;> simp [hcovers]

end Sys2Proof.Machine

open Sys2Proof.Machine

/-- Settles O44: the covered pixels are those the statement lists, and VF reports one that went Off. -/
theorem drawXorsTheSprite : Obligations.DrawXorsTheSprite := by
  intro s x y n
  refine ⟨fun hin => ⟨s.drawn x y n, exec_drw_in_range x y hin, fun px py hpx hpy => ?_, drawn_VF_zero_or_one s x y n, ?_,
    drawn_frame s x y n⟩, takesFault_drw⟩
  · rw [drawn_pixel_ne_iff, drawCovers_iff, Nat.mod_eq_of_lt hpx, Nat.mod_eq_of_lt hpy]
  · rw [drawn_VF_eq_one]
    exact exists_congr fun px => exists_congr fun py => drawn_turned_off_iff px py

/-- Settles O45: the second draw covers the same pixels, and finds On what the first turned On. -/
theorem drawTwiceRestores : Obligations.DrawTwiceRestores := by
  intro s t u x y n hin h hx hy h'
  obtain rfl : s.drawn x y n = t := Host.Outcome.next.inj ((exec_drw_in_range x y hin).symm.trans h)
  obtain rfl : (s.drawn x y n).drawn x y n = u :=
    Host.Outcome.next.inj ((exec_drw_in_range (s := s.drawn x y n) x y hin).symm.trans h')
  refine ⟨drawn_drawn_pixel hx hy, fun hVF hbit => ?_⟩
  obtain ⟨r, c, hr, hc, hbit⟩ := hbit
  have hcovers : s.DrawCovers x y n ((s.V x).toNat + c) ((s.V y).toNat + r) := drawCovers_iff.2 ⟨r, c, hr, hc, hbit, rfl, rfl⟩
  have hoff : s.disp.pixel ((s.V x).toNat + c) ((s.V y).toNat + r) ≠ true := fun hon => by
    rw [drawn_VF_eq_one.2 ⟨_, _, hcovers, hon⟩] at hVF
    exact absurd hVF (by decide)
  have hturned : (s.drawn x y n).disp.pixel ((s.V x).toNat + c) ((s.V y).toNat + r) = true :=
    (drawn_pixel _ _).2 fun hiff => hoff (hiff.2 hcovers)
  exact drawn_VF_eq_one.2 ⟨_, _, (drawCovers_drawn hx hy _ _).2 hcovers, hturned⟩
end

section
/-! PROOFS. O46 (R276). The views walk rows and columns, and so do the pixels: rows of one length one after the other put
entry x of row y at y * 64 + x. -/

namespace Sys2Proof.Machine

/-- Entry x of row y, in rows of length w one after the other. -/
theorem getElem?_flatMap_range {α : Type} {w : Nat} {f : Nat → List α} (hw : ∀ y, (f y).length = w) {rows x y : Nat} (hx : x < w)
    (hy : y < rows) : ((List.range rows).flatMap f)[y * w + x]? = (f y)[x]? := by
  induction rows with
  | zero => omega
  | succ rows ih =>
    have hlen : ((List.range rows).flatMap f).length = rows * w := by simp [List.length_flatMap, hw]
    rw [List.range_succ, List.flatMap_append]
    by_cases hlast : y = rows
    · subst hlast
      rw [List.getElem?_append_right (by omega), hlen, Nat.add_sub_cancel_left]
      simp
    · have hbefore : y * w + x < rows * w := by
        have hrow : (y + 1) * w ≤ rows * w := Nat.mul_le_mul_right w (by omega)
        rw [Nat.succ_mul] at hrow
        omega
      rw [List.getElem?_append_left (by omega)]
      exact ih (by omega)

theorem Display.flat_length (d : Display) : d.flat.length = 2048 := by
  simp [Display.flat_eq_pixels, List.length_flatMap]

theorem Display.flat_getElem? (d : Display) {x y : Nat} (hx : x < 64) (hy : y < 32) :
    d.flat[y * 64 + x]? = some (if d.pixel x y then 1 else 0) := by
  rw [Display.flat_eq_pixels, getElem?_flatMap_range (w := 64) (by simp) hx hy]
  simp [hx]

/-- The string view goes through the pixels row by row, column by column. -/
theorem Display.text_eq_pixels (d : Display) : d.text = String.intercalate Config.lineBreak
    ((List.range 32).map fun y => String.join ((List.range 64).map fun x => Display.pixelString (d.pixel x y))) := by
  refine congrArg (String.intercalate Config.lineBreak) (Display.map_toList _ _ _ fun y hy => ?_)
  refine congrArg String.join (Display.map_toList _ _ _ fun x hx => ?_)
  rw [Display.getElem_getElem d x y hx hy]

end Sys2Proof.Machine

open Sys2Proof.Machine

/-- Settles O46: each view is the pixels row by row, and a read is no change of state. -/
theorem readViews : Obligations.ReadViews := fun s =>
  ⟨fun _ => rfl, rfl, fun x y => s.disp.getElem_getElem x y, rfl, s.disp.flat_length, fun _ _ => s.disp.flat_getElem?,
    congrArg HostResult.text s.disp.text_eq_pixels⟩
end

section
/-! PROOFS. O48, O49, O50 (R301, R304, R330 to R332). The lowest held key is one, so a key held with none below it is the one FX0A
loads; n ticks are n times one; a key flag is one entry of the latch. -/

namespace Sys2Proof.Machine

/-! ### The lowest held key -/

theorem firstHeld_eq_some {s : State} {k : Nat} (hk : k < 16) (hheld : s.keyFlag k = true)
    (hlow : ∀ j, j < k → s.keyFlag j = false) : s.firstHeld = some k := by
  cases hf : s.firstHeld with
  | none => exact absurd hheld (by simp [s.firstHeld_none.1 hf k hk])
  | some j =>
    obtain ⟨-, hj, hjlow⟩ := s.firstHeld_some j hf
    rcases Nat.lt_trichotomy j k with hlt | rfl | hgt
    · exact absurd hj (by simp [hlow j hlt])
    · rfl
    · exact absurd hheld (by simp [hjlow k hgt])

theorem key_toNat {k : Nat} (hk : k < 16) : (BitVec.ofNat 8 k).toNat = k := by
  rw [BitVec.toNat_ofNat]
  omega

/-! ### Ticks -/

theorem tickDown_toNat (t : Byte) : (tickDown t).toNat = t.toNat - 1 := by
  unfold tickDown
  split
  · bv_omega
  · omega

theorem changesOnly_tickTimers (s : State) : ChangesOnly [.dt, .st] s (tickTimers s) := by
  intro p hp
  cases p with
  | dt | st => simp at hp
  | _ => simp [Part.same, tickTimers]

/-- n ticks: each timer is down by n but not below 0, and nothing else has changed. -/
theorem tickTimers_iterate (s : State) (n : Nat) : ((tickTimers^[n]) s).dt.toNat = s.dt.toNat - n ∧
    ((tickTimers^[n]) s).st.toNat = s.st.toNat - n ∧ ChangesOnly [.dt, .st] s ((tickTimers^[n]) s) := by
  induction n with
  | zero => exact ⟨rfl, rfl, fun p _ => by cases p <;> simp [Part.same]⟩
  | succ n ih =>
    obtain ⟨hdt, hst, hrest⟩ := ih
    rw [Function.iterate_succ_apply']
    refine ⟨?_, ?_, hrest.comp (changesOnly_tickTimers _) (List.Subset.refl _) (List.Subset.refl _)⟩
    · exact (tickDown_toNat _).trans (by omega)
    · exact (tickDown_toNat _).trans (by omega)

/-! ### The key latch -/

theorem keyFlag_setKeys_set (s : State) {index : Nat} (h : index < 16) (held : Bool) (k : Nat) :
    (s.setKeys (s.key.set index held h)).keyFlag k = if k = index then held else s.keyFlag k := by
  simp only [State.keyFlag, State.setKeys_key, Vector.getElem_set]
  by_cases hk : k = index
  · simp [hk, h]
  · simp [hk, Ne.symm hk]

theorem changesOnly_setKeys (s : State) (keys : Vector Bool 16) : ChangesOnly [.key] s (s.setKeys keys) := by
  intro p hp
  cases p with
  | key => simp at hp
  | _ => simp [Part.same]

theorem hostCall_setKeyState_ok (s : State) {index : Nat} (h : index < 16) (held : Bool) :
    hostCall (.setKeyState index held) s = (s.setKeys (s.key.set index held h), .ok) :=
  dif_pos h

theorem hostCall_setKeyState_refused (s : State) {index : Nat} (h : 16 ≤ index) (held : Bool) :
    hostCall (.setKeyState index held) s = (s, .hostErr .keyIndexOutOfRange) :=
  dif_neg (Nat.not_lt_of_le h)

end Sys2Proof.Machine

open Sys2Proof.Machine

/-- Settles O48: the wait stands still with no key held, else it is one register write after the advance. -/
theorem waitForKey : Obligations.WaitForKey := by
  intro s x
  refine ⟨fun hnone => exec_ldVxK_of_none x (s.firstHeld_none.2 hnone), fun k hk hheld hlow => ?_⟩
  refine ⟨_, exec_ldVxK_of_some x (firstHeld_eq_some hk hheld hlow), ?_, advance_setV_frame s x _⟩
  rw [State.V_setV_self, key_toNat hk]

/-- Settles O49, by induction on the number of ticks. -/
theorem ticksCountDown : Obligations.TicksCountDown := by
  intro s n
  obtain ⟨hdt, hst, hrest⟩ := tickTimers_iterate s n
  have hsound : soundActive ((tickTimers^[n]) s) = decide (n < s.st.toNat) :=
    decide_eq_decide.2 (by rw [hst]; omega)
  exact ⟨rfl, hdt, hst, hrest, by rw [← hsound]; rfl⟩

/-- Settles O50: one entry of the latch, or the refusal. -/
theorem setKeyState : Obligations.SetKeyState := by
  intro s index held
  refine ⟨fun h => ?_, fun h => hostCall_setKeyState_refused s h held⟩
  rw [hostCall_setKeyState_ok s h held]
  exact ⟨rfl, keyFlag_setKeys_set s h held, changesOnly_setKeys s _⟩
end

section
/-! PROOFS. O51, O52 (R370 to R373). The image is written with its padding byte as one list from 0x200; the reset state reads off
its definition, its memory by what an unlisted address reads as. -/

namespace Sys2Proof.Machine

theorem padProgram_length (b : List Byte) : (padProgram b).length = b.length + b.length % 2 := by
  unfold padProgram
  split
  · rw [List.length_append, List.length_singleton]
    omega
  · omega

theorem padProgram_getD {b : List Byte} {k : Nat} (hk : k < b.length) : (padProgram b).getD k 0 = b.getD k 0 := by
  unfold padProgram
  split
  · exact List.getD_append b [0] 0 k hk
  · rfl

/-- The padding byte, or the default past the end. -/
theorem padProgram_getD_length (b : List Byte) : (padProgram b).getD b.length 0 = 0 := by
  unfold padProgram
  split
  · simp
  · exact List.getD_eq_default b 0 le_rfl

theorem hostCall_loadProgram_ok (s : State) {b : List Byte} (h : b.length ≤ 0xE00) :
    hostCall (.loadProgram b) s = (s.setMem (s.mem.putBytes 0x200 (padProgram b)), .ok) :=
  if_neg (by rw [padProgram_length, Config.maxProgram]; omega)

theorem hostCall_loadProgram_refused (s : State) {b : List Byte} (h : 0xE00 < b.length) :
    hostCall (.loadProgram b) s = (s, .hostErr .programTooLarge) :=
  if_pos (by rw [padProgram_length, Config.maxProgram]; omega)

theorem changesOnly_setMem (s : State) (m : Memory) : ChangesOnly [.mem] s (s.setMem m) := by
  intro p hp
  cases p with
  | mem => simp at hp
  | _ => simp [Part.same]

/-- Byte k of the padded image stands at 0x200 + k. -/
theorem byte_putBytes_padProgram (m : Memory) {b : List Byte} {k : Nat} (hk : k < b.length + b.length % 2) :
    (m.putBytes 0x200 (padProgram b)).byte (0x200 + k) = (padProgram b).getD k 0 := by
  rw [Memory.byte_putBytes, padProgram_length, if_pos ⟨Nat.le_add_right _ _, Nat.add_lt_add_left hk _⟩, Nat.add_sub_cancel_left]

theorem otherBytesSame_putBytes_padProgram (s : State) (b : List Byte) :
    OtherBytesSame 0x200 (b.length + b.length % 2) s (s.setMem (s.mem.putBytes 0x200 (padProgram b))) := by
  intro a ha
  rw [State.setMem_mem, Memory.byte_putBytes, padProgram_length]
  exact if_neg (by omega)

theorem reset_V (r : RegIdx) : State.reset.V r = 0 := by
  simp [State.V, State.reset]

theorem reset_keyFlag (k : Nat) : State.reset.keyFlag k = false := by
  simp [State.keyFlag, State.reset]

end Sys2Proof.Machine

open Sys2Proof.Machine

/-- Settles O51: the padded image as one list written from 0x200, or the refusal. -/
theorem loadProgram : Obligations.LoadProgram := by
  intro s b
  refine ⟨fun h => ?_, hostCall_loadProgram_refused s⟩
  rw [hostCall_loadProgram_ok s h]
  refine ⟨rfl, fun k hk => ?_, fun hodd => ?_, otherBytesSame_putBytes_padProgram s b, changesOnly_setMem s _⟩
  · exact (byte_putBytes_padProgram s.mem (by omega)).trans (padProgram_getD hk)
  · exact (byte_putBytes_padProgram s.mem (by omega)).trans (padProgram_getD_length b)

/-- Settles O52: each piece of the reset state by its definition. -/
theorem resetState : Obligations.ResetState := fun s =>
  ⟨hostReset s, rfl, rfl, rfl, reset_V, rfl, rfl, rfl, reset_keyFlag, Display.pixel_clear, rfl, fun _ _ => rfl, resetByte_past_font,
    rfl⟩
end
